-- ==== Sys2Proof/Word.lean ====
section
/-! DEFINITION. The widths of the values the block takes and gives (00_scope.md R7, R8, R10). Bit `i` of a value has weight
`2^i` (R8), which is `BitVec`'s own numbering; every value is unsigned (R10). -/

namespace Sys2Proof

/-- The 64-bit payload word (`W_DATA`, R7). -/
abbrev Word := BitVec 64

/-- The 8-bit SECDED code (`W_CODE`, R7): bit 0 the global parity, bits 7:1 the Hamming field (R41). -/
abbrev Code := BitVec 8

/-- The 7-bit Hamming field (`W_HAM`, R7). -/
abbrev Hamming := BitVec 7

/-- The 7-bit syndrome (`W_SYN`, R7). -/
abbrev Syndrome := BitVec 7

/-- The 2-bit `dec_status` signal (R45). -/
abbrev Status := BitVec 2

/-- The 73-bit request word `req[72:0]` (R40). -/
abbrev Request := BitVec 73

/-- The 66-bit response of a VERIFY request, `rsp[65:0]` (R40). -/
abbrev VerifyRsp := BitVec 66

/-- A coverage mask table: `N_MASK` = 6 masks, `MASK[0]` first (R7, R15). A type of its own so that the encoder and the decoder can
be read over any table (93_implementation_defined.md I2); the hardware's own table is `Machine.maskTable`. -/
abbrev MaskTable := Vector Word 6

/-- The number of 1 bits of a value (R10). -/
def popcount {n : Nat} (v : BitVec n) : Nat := (List.range n).countP v.getLsbD

end Sys2Proof
end

