-- ==== Sys2Proof/Config.lean ====
section
/-! DEFINITION. What an implementation fixes. R7: the block's own parameters are all fixed by the spec (they are the widths of
Word.lean and `Machine.maskTable`); the one open parameter belongs to a clocked wrapper. -/

namespace Sys2Proof.Config

/-- UNVERIFIED. `LATENCY`, the number of cycles of a clocked wrapper, left OPEN by 92_eei_decisions.md D12 (R106). It has no body:
nothing can be proved about its value. It is one number, not a function of the operands, because R106 says it must be the same for
every input. No definition of the model reads it ("No rule depends on it", R7); see log entry 6. -/
opaque latency : Nat

end Sys2Proof.Config
end

