-- ==== Sys2Proof/Syntax.lean ====
section
/-! DEFINITION. The operations of the block (R46) and the statements of a test script (R49), as syntax. -/

namespace Sys2Proof

/-- One constructor per row of spec/opcode_table.json. The block has exactly these two operations (R46, R93); PARITY64 and HAMMING7
are internal functions that no input selects. -/
inductive Instr where
  /-- ENCODE, `op` = 0 (R55). `data` is its operand; `unused` is the request's `code` field, which ENCODE ignores (R40, R47). It is
  kept so that no bit of a request is lost in decoding. -/
  | encode (data : Word) (unused : Code)
  /-- VERIFY, `op` = 1 (R72): the received word and its stored code. -/
  | verify (data : Word) (code : Code)
deriving DecidableEq, Repr

/-- A statement of a test script (R49). A literal is its hexadecimal digits, the most significant first (R8). -/
inductive ScriptLine where
  /-- `ENCODE <data>`. -/
  | encode (data : List (Fin 16))
  /-- `VERIFY <data>, <code>`. -/
  | verify (data code : List (Fin 16))
deriving DecidableEq, Repr

end Sys2Proof
end

