-- ==== Sys2Proof/WellFormed.lean ====
section
/-! DEFINITION. Which terms of Syntax.lean the spec admits. -/

namespace Sys2Proof

/-- R47: "Every 64-bit `data` and every 8-bit `code` is a legal operand", so every instruction is well formed: the widths, which are
all the spec asks, are already in the operands' types. -/
def Instr.wellFormed : Instr → Bool
  | .encode _ _ => true
  | .verify _ _ => true

/-- A `<data>` literal has 1 to 16 hexadecimal digits (R49). -/
def dataLiteralOk (digits : List (Fin 16)) : Bool := 1 ≤ digits.length && digits.length ≤ 16

/-- A `<code>` literal has 1 or 2 hexadecimal digits (R49). -/
def codeLiteralOk (digits : List (Fin 16)) : Bool := 1 ≤ digits.length && digits.length ≤ 2

/-- A script statement is well formed when each of its literals has a length that R49 allows. -/
def ScriptLine.wellFormed : ScriptLine → Bool
  | .encode data => dataLiteralOk data
  | .verify data code => dataLiteralOk data && codeLiteralOk code

end Sys2Proof
end

