-- ==== Sys2Proof/Decode.lean ====
section
/-! DEFINITION. Request words to instructions and back (30_encoding.md R40, R43, R46, R48, R51). -/

namespace Sys2Proof

/-- `req[0]`, the `op` field (R40): false is ENCODE, true is VERIFY (R46). -/
def opField (r : Request) : Bool := r.getLsbD 0

/-- `req[64:1]`, the payload operand (R40). -/
def dataField (r : Request) : Word := r.extractLsb' 1 64

/-- `req[72:65]`, the stored code (R40). -/
def codeField (r : Request) : Code := r.extractLsb' 65 8

/-- The decoder of request words. R51: it is total and "has no invalid outcome". -/
def decodeRequest (r : Request) : Instr :=
  if opField r then .verify (dataField r) (codeField r) else .encode (dataField r) (codeField r)

/-- `req = {code, data, op}` (R40): the request word of an instruction. -/
def encode : Instr → Request
  | .encode data unused => unused ++ data ++ 0#1
  | .verify data code => code ++ data ++ 1#1

/-- Why a number is no request. -/
inductive DecodeError where
  /-- The number has a bit above bit 72, and a request word has the single fixed layout of 73 bits (R40, R48). -/
  | moreThan73Bits
deriving DecidableEq, Repr

/-- The request word that a number stands for, bit `i` of the number being `req[i]`; refused by name when it has more bits than a
request has. The block has no byte-wide interface and no byte order (R28), so there is no decoder of bytes. -/
def requestOfNumber (w : Nat) : Except DecodeError Request :=
  if w < 2 ^ 73 then .ok (BitVec.ofNat 73 w) else .error .moreThan73Bits

/-- The instruction that a number stands for, or the reason it stands for none. -/
def decodeNumber (w : Nat) : Except DecodeError Instr :=
  match requestOfNumber w with
  | .ok r => .ok (decodeRequest r)
  | .error e => .error e

/-- A word of `nbits` bits as a number: every bit from `nbits` on is 0. -/
def tableWord (nbits w : Nat) : Nat := w % 2 ^ nbits

/-- The instruction the decoder reads from a word numbered as spec/opcode_table.json numbers it (bit 0 is `op`). -/
def decodeTableWord (nbits w : Nat) : Option Instr :=
  match decodeNumber (tableWord nbits w) with
  | .ok i => some i
  | .error _ => none

end Sys2Proof
end

