-- ==== Sys2Proof/Machine/State.lean ====
section
/-! DEFINITION. The machine's state. R13: the BLOCK has no architectural state ("A model's state for this block is therefore the unit
type"). What `State` holds is the block's surroundings in the transaction view of R40, in which a program is a script of
transactions (92_eei_decisions.md D22): the levels on the input signals (R39, R23), the requests still to be applied and the
responses already read. The outputs are not stored: they are functions of the inputs (R24, Machine/Ops.lean). The mask table is
a hardwired constant (R15, R100, Machine/Encoder.lean). See log entry 1. -/

namespace Sys2Proof.Machine

/-- The result of VERIFY (R12, R45), the source's `Outcome` type. -/
inductive VerifyOutcome where
  | clean
  | corrected (word : Word)
  | uncorrectable
deriving DecidableEq, Repr

/-- What a request returns (R40). -/
inductive Response where
  /-- An ENCODE request returns the 8-bit code. -/
  | code (code : Code)
  /-- A VERIFY request returns `rsp[65:0] = {data_out, status}`. -/
  | verdict (rsp : VerifyRsp)
deriving DecidableEq, Repr

/-- Faults. The block itself raises none (R85): `exec` and `step` never answer one. -/
inductive Fault where
  /-- R47, 93_implementation_defined.md I5: a consumer read `dec_status = 0b11`, which the decoder never drives. Raised by the
  consumer's `readOutcome` only. Safe: it stops a consumer of a value that the block never gives. -/
  | interfaceStatus
deriving DecidableEq, Repr

/-- Refusals. No request is refused (R47, R51): `exec` and `step` never answer one. -/
inductive Refusal where
  /-- An instruction that has no meaning yet, by its mnemonic; raised by no arm of `exec`. Safe: it stops. -/
  | notModelled (mnemonic : String)
deriving DecidableEq, Repr

structure State where
  /-- The level on the input signal `enc_data` (R39). -/
  encData : Word
  /-- The level on the input signal `dec_data` (R39). -/
  decData : Word
  /-- The level on the input signal `dec_code` (R39). -/
  decCode : Code
  /-- The model's own: the requests still to be applied, the next one first (R40, D22). -/
  requests : List Request
  /-- The model's own: the responses read so far, the oldest first (R40). -/
  responses : List Response
deriving DecidableEq, Repr

/-- After power-up. R24, R99: there is no reset input and nothing for a reset to set. DESIGN CHOICE (log entry 2): the surroundings
drive 0 on each input signal, have no request waiting and have read no response. -/
def State.reset : State :=
  { encData := 0, decData := 0, decCode := 0, requests := [], responses := [] }

end Sys2Proof.Machine
end

