-- ==== Sys2Proof/Machine/Encoder.lean ====
section
/-! DEFINITION. The encoder's arithmetic: the Coverage Mask Table (10_state.md R15), the Parity Primitive (R53), the Hamming
Encoder (R54) and the SECDED Composer (R55) of 40_encode.md. The functions that use the table take it as a last argument that is
the hardware's own table unless another is given (93_implementation_defined.md I2). -/

namespace Sys2Proof.Machine

/-- The Coverage Mask Table, hardwired (R15). The literals win over the prose rule for the masks (90_conflicts.md C1, D9; log
entry 4). -/
def maskTable : MaskTable :=
  #v[0x5555555555555555#64, 0x3333333333333333#64, 0x0F0F0F0F0F0F0F0F#64,
     0x00FF00FF00FF00FF#64, 0x0000FFFF0000FFFF#64, 0x00000000FFFFFFFF#64]

/-- One round of the shift-xor-fold of R66: XOR the value with itself moved down by `n` places. -/
def foldDown (n : Nat) (v : Word) : Word := v ^^^ (v >>> n)

/-- PARITY64 (R53): 1 when the number of set bits is odd. Written as R66's "portable, branchless shift-xor-fold", the reference
implementation that the source names, which the kernel evaluates fast; R66 takes any implementation whose result is that of R53
for every input, and obligation `ParityFoldIsTheLoop` says that this one's is. -/
def parity64 (v : Word) : Bool :=
  (foldDown 1 (foldDown 2 (foldDown 4 (foldDown 8 (foldDown 16 (foldDown 32 v)))))).getLsbD 0

/-- The loop of R53 as its pseudocode has it, after `n` rounds: `p XOR v[i]` for `i` in 0 .. n-1. No meaning calls it; the statements
hold `parity64` against it. -/
def parityLoop : Nat → Word → Bool
  | 0, _ => false
  | n + 1, v => parityLoop n v ^^ v.getLsbD n

/-- Bit `j` of the Hamming field for `j` in 0..5: `PARITY64(data AND MASK[j])` (R54). -/
def coverageBit (j : Fin 6) (data : Word) (m : MaskTable := maskTable) : Bool := parity64 (data &&& m[j])

/-- HAMMING7 (R54). Bit 6 is the raw bit `data[63]`, "a direct bit read, not a parity computation" (R65). -/
def hamming7 (data : Word) (m : MaskTable := maskTable) : Hamming :=
  BitVec.ofBool (data.getLsbD 63) ++ BitVec.ofBool (coverageBit 5 data m) ++ BitVec.ofBool (coverageBit 4 data m) ++
    BitVec.ofBool (coverageBit 3 data m) ++ BitVec.ofBool (coverageBit 2 data m) ++ BitVec.ofBool (coverageBit 1 data m) ++
    BitVec.ofBool (coverageBit 0 data m)

/-- `global_parity` of R55, from the word and its Hamming field: `dp XOR cp`. -/
def globalParity (data : Word) (h : Hamming) : Bool := parity64 data ^^ parity64 (h.setWidth 64)

/-- ENCODE (R55), the source's `encode_secded`: `code = {h, gp}`. -/
def secdedEncode (data : Word) (m : MaskTable := maskTable) : Code :=
  hamming7 data m ++ BitVec.ofBool (globalParity data (hamming7 data m))

/-- The word with only bit `i` set: `1 << i` (R10). -/
def oneBit (i : Fin 64) : Word := 1#64 <<< i.val

/-- `column(i) = HAMMING7(1 << i)` (R58). -/
def column (i : Fin 64) (m : MaskTable := maskTable) : Syndrome := hamming7 (oneBit i) m

/-- The check that 93_implementation_defined.md I2 asks of a mask table: its 64 columns are non-zero and distinct. -/
def maskTableOk (m : MaskTable) : Bool :=
  (List.finRange 64).all fun i => column i m != 0 && (List.finRange 64).all fun j => i == j || column i m != column j m

end Sys2Proof.Machine
end

