-- ==== Sys2Proof/Machine/Operands.lean ====
section
/-! DEFINITION. Operand assembly (30_encoding.md R43). ENCODE and VERIFY take `data` whole; VERIFY splits `code` into two fields. No
operation has an immediate, a scaled field, a sign extension or an addressing mode (R26, R43). -/

namespace Sys2Proof.Machine

/-- `stored_hamming = code >> 1`, which is `code[7:1]` (R43). -/
def storedHamming (code : Code) : Hamming := code.extractLsb' 1 7

/-- `stored_parity = code[0]` (R43). R43: it "is not read on its own", so no meaning calls it. -/
def storedParity (code : Code) : Bool := code.getLsbD 0

end Sys2Proof.Machine
end

