-- ==== Sys2Proof/Machine/Decoder.lean ====
section
/-! DEFINITION. The decoder's arithmetic (41_verify_and_correct.md R67 to R72). As in Encoder.lean, the mask table is a last argument
that is the hardware's own table unless another is given. -/

namespace Sys2Proof.Machine

/-- The syndrome `s = HAMMING7(data) XOR code[7:1]` (R67). -/
def syndrome (data : Word) (code : Code) (m : MaskTable := maskTable) : Syndrome := hamming7 data m ^^^ storedHamming code

/-- The overall parity check `q = PARITY64(zext_64(ENCODE(data) XOR code))` (R68). -/
def overallParity (data : Word) (code : Code) (m : MaskTable := maskTable) : Bool :=
  parity64 ((secdedEncode data m ^^^ code).setWidth 64)

/-- LOCATE (R70): the index whose column is the syndrome, none where there is no such index. -/
def locate (s : Syndrome) (m : MaskTable := maskTable) : Option (Fin 64) :=
  (List.finRange 64).find? fun i => column i m == s

/-- The last branch of R72 (`s` not zero, odd mismatch): flip the located bit; no index, no correction (D7). -/
def correctAt (data : Word) (s : Syndrome) (m : MaskTable := maskTable) : VerifyOutcome :=
  match locate s m with
  | none => .uncorrectable
  | some i => .corrected (data ^^^ oneBit i)

/-- VERIFY (R72), the source's `verify_and_correct`. The second branch is D6, R76. -/
def verifyAndCorrect (data : Word) (code : Code) (m : MaskTable := maskTable) : VerifyOutcome :=
  if syndrome data code m = 0#7 && !overallParity data code m then .clean
  else if syndrome data code m = 0#7 && overallParity data code m then .corrected data
  else if !overallParity data code m then .uncorrectable
  else correctAt data (syndrome data code m) m

end Sys2Proof.Machine
end

