-- ==== Sys2Proof/Machine/Flags.lean ====
section
/-! DEFINITION. The block has no flags and no condition codes (R18). What stands in their place is the status output of VERIFY: its
binary form (R45), the word beside it (R73), the response that carries both (R40), and how a consumer reads them (R47). -/

namespace Sys2Proof.Machine

/-- `dec_status` (R45). -/
def VerifyOutcome.status : VerifyOutcome → Status
  | .clean => 0b00#2
  | .corrected _ => 0b01#2
  | .uncorrectable => 0b10#2

/-- `dec_data_out` for an outcome of VERIFY on the word `data` (R73, D5). -/
def VerifyOutcome.dataOut (data : Word) : VerifyOutcome → Word
  | .clean => data
  | .corrected w => w
  | .uncorrectable => data

/-- `rsp[65:0] = {data_out, status}` (R40). -/
def packRsp (dataOut : Word) (status : Status) : VerifyRsp := dataOut ++ status

/-- `rsp[1:0]`, the status (R40). -/
def rspStatus (rsp : VerifyRsp) : Status := rsp.extractLsb' 0 2

/-- `rsp[65:2]`, the word (R40). -/
def rspDataOut (rsp : VerifyRsp) : Word := rsp.extractLsb' 2 64

/-- A response that the block can give: its status is not `0b11`, which is never driven (R45). -/
def Response.legal : Response → Bool
  | .code _ => true
  | .verdict rsp => rspStatus rsp != 0b11#2

/-- How a consumer reads the decoder's outputs (R45, R47). `0b11` is a fault of the interface, "neither Clean nor Corrected". On
Uncorrectable the consumer does not use `dec_data_out` (R73). -/
def readOutcome (status : Status) (dataOut : Word) : Except Fault VerifyOutcome :=
  if status = 0b00#2 then .ok .clean
  else if status = 0b01#2 then .ok (.corrected dataOut)
  else if status = 0b10#2 then .ok .uncorrectable
  else .error .interfaceStatus

end Sys2Proof.Machine
end

