-- ==== Sys2Proof/Machine/Ops.lean ====
section
/-! DEFINITION. The shared operations over the state: driving the input signals, the output signals, taking a response, and taking
the next request. The block has no memory and no registers (R14, R26) and no exception, trap entry or return (R85, R89, R90),
so there is no operation for any of these. -/

namespace Sys2Proof.Machine

/-- Drive `enc_data` (R39). The decoder's inputs keep their levels: the datapaths are independent (R38, R88; log entry 5). -/
def State.driveEncoder (s : State) (data : Word) : State := { s with encData := data }

/-- Drive `dec_data` and `dec_code` (R39). -/
def State.driveDecoder (s : State) (data : Word) (code : Code) : State := { s with decData := data, decCode := code }

/-- The port-level view (R52): the outside world drives all the input signals at once. It is no step of the machine. -/
def State.drivePorts (s : State) (encData decData : Word) (decCode : Code) : State :=
  (s.driveEncoder encData).driveDecoder decData decCode

/-- The output signal `enc_code`: at all times a function of `enc_data` (R24, R38). -/
def State.encCode (s : State) : Code := secdedEncode s.encData

/-- The outcome the decoder reports, at all times a function of its inputs (R24, R38). -/
def State.decOutcome (s : State) : VerifyOutcome := verifyAndCorrect s.decData s.decCode

/-- The output signal `dec_status` (R39, R45). -/
def State.decStatus (s : State) : Status := s.decOutcome.status

/-- The output signal `dec_data_out` (R39, R73). -/
def State.decDataOut (s : State) : Word := s.decOutcome.dataOut s.decData

/-- The driver of the requests reads a response. -/
def State.deliver (s : State) (x : Response) : State := { s with responses := s.responses ++ [x] }

/-- Put a request where the next step takes its request from. -/
def State.present (s : State) (r : Request) : State := { s with requests := r :: s.requests }

/-- A script is given to the machine from outside: its requests come after those already waiting (D22). -/
def State.load (s : State) (rs : List Request) : State := { s with requests := s.requests ++ rs }

/-- Take the next request, if one waits. -/
def State.fetch (s : State) : Option (Request × State) :=
  match s.requests with
  | [] => none
  | r :: rest => some (r, { s with requests := rest })

/-- A step with no request waiting. DESIGN CHOICE (log entry 3): nothing changes; the outputs stay the function of the inputs that
they are at all times (R38). -/
def State.idle (s : State) : Host.Outcome State Fault Refusal := .next s

end Sys2Proof.Machine
end

