-- ==== Sys2Proof/Machine/Encode.lean ====
section
/-! DEFINITION. The encode family's one operation (40_encode.md R55). -/

namespace Sys2Proof.Machine

/-- ENCODE (R55) as a transaction (R40): drive `enc_data`, then read `enc_code`. The request's `code` field is ignored (R47, D19). It
writes no flag and raises no exception (R63). -/
def execEncode (data : Word) (_unused : Code) (s : State) : Host.Outcome State Fault Refusal :=
  let driven := s.driveEncoder data
  .next (driven.deliver (.code driven.encCode))

end Sys2Proof.Machine
end

