-- ==== Sys2Proof/Machine/Verify.lean ====
section
/-! DEFINITION. The verify-and-correct family's one operation (41_verify_and_correct.md R72). -/

namespace Sys2Proof.Machine

/-- VERIFY (R72) as a transaction (R40): drive `dec_data` and `dec_code`, then read `dec_status` and `dec_data_out`. Uncorrectable
is a result and no exception (R86); nothing is written back (R31, R83). -/
def execVerify (data : Word) (code : Code) (s : State) : Host.Outcome State Fault Refusal :=
  let driven := s.driveDecoder data code
  .next (driven.deliver (.verdict (packRsp driven.decDataOut driven.decStatus)))

end Sys2Proof.Machine
end

