-- ==== Sys2Proof/Machine/Dispatch.lean ====
section
/-! DEFINITION. One arm per operation (R46). -/

namespace Sys2Proof.Machine

def exec (i : Instr) (s : State) : Host.Outcome State Fault Refusal :=
  match i with
  | .encode data unused => Sys2Proof.Machine.execEncode data unused s
  | .verify data code => Sys2Proof.Machine.execVerify data code s

end Sys2Proof.Machine
end

