-- ==== Sys2Proof/Machine/Step.lean ====
section
/-! DEFINITION. One step: one transaction of the script, indivisible (R30, D12). There is no program counter (R17); the next request
is the first one waiting. -/

namespace Sys2Proof.Machine

/-- Take the next request, decode it, run it; with no request waiting, idle. -/
def step (s : State) : Host.Outcome State Fault Refusal :=
  match s.fetch with
  | none => s.idle
  | some (r, t) => exec (decodeRequest r) t

/-- `s` with the table word as the next request (log entry 1). A number that is no request (more than 73 bits) cannot be presented. -/
def State.withFetchWord (s : State) (nbits w : Nat) : State :=
  match requestOfNumber (tableWord nbits w) with
  | .ok r => s.present r
  | .error _ => s

end Sys2Proof.Machine
end

