-- ==== Sys2Proof/Machine/Text.lean ====
section
/-! DEFINITION. The textual form of test scripts (30_encoding.md R49, D16): one statement a line, read from characters. R49 does not
say how white space, the case of letters and blank lines are taken: DESIGN CHOICE, log entry 7. -/

namespace Sys2Proof.Machine

/-- Why a line of text is no statement. -/
inductive TextError where
  /-- The words of the line have neither of the two forms of R49 ("There are no pseudo-instructions, labels or directives"). -/
  | noSuchForm
  /-- A literal is not `0x` and hexadecimal digits, or has more or fewer digits than R49 allows. -/
  | badLiteral
deriving DecidableEq, Repr

/-- The value of a hexadecimal digit; both cases are read. -/
def hexDigit? (c : Char) : Option (Fin 16) :=
  let n := c.toNat
  if 48 ≤ n ∧ n ≤ 57 then some (Fin.ofNat 16 (n - 48))
  else if 65 ≤ n ∧ n ≤ 70 then some (Fin.ofNat 16 (n - 55))
  else if 97 ≤ n ∧ n ≤ 102 then some (Fin.ofNat 16 (n - 87))
  else none

/-- The digits of a literal after its `0x`. -/
def hexDigits? : List Char → Option (List (Fin 16))
  | [] => some []
  | c :: cs =>
    match hexDigit? c, hexDigits? cs with
    | some d, some ds => some (d :: ds)
    | _, _ => none

/-- "a hexadecimal literal `0x` followed by" digits (R49). -/
def hexLiteral? : List Char → Option (List (Fin 16))
  | '0' :: 'x' :: cs => hexDigits? cs
  | _ => none

/-- The number that digits stand for, the most significant first (R8). -/
def digitsValue (ds : List (Fin 16)) : Nat := ds.foldl (fun n d => n * 16 + d.val) 0

/-- The instruction of a statement, its literals zero-extended (R49). A script gives ENCODE no code; the request's field, which
ENCODE ignores, is 0 as in 95_test_vectors.md V11. -/
def instrOfLine : ScriptLine → Instr
  | .encode data => .encode (BitVec.ofNat 64 (digitsValue data)) 0
  | .verify data code => .verify (BitVec.ofNat 64 (digitsValue data)) (BitVec.ofNat 8 (digitsValue code))

/-- "A `;` starts a comment" (R49). -/
def dropComment (line : List Char) : List Char := line.takeWhile (· != ';')

/-- A word that has been read, unless it is empty. -/
def wordOf (cs : List Char) : List (List Char) := if cs = [] then [] else [cs]

/-- The words of a line: blanks and tabs part them, and a comma is a word of its own. `word` is the one being read. -/
def wordsFrom (word : List Char) : List Char → List (List Char)
  | [] => wordOf word
  | c :: cs =>
    if c = ' ' ∨ c = '\t' then wordOf word ++ wordsFrom [] cs
    else if c = ',' then wordOf word ++ [c] :: wordsFrom [] cs
    else wordsFrom (word ++ [c]) cs

/-- A statement that R49's limits on the digits admit. -/
def checked (l : ScriptLine) : Except TextError (Option ScriptLine) :=
  if l.wellFormed then .ok (some l) else .error .badLiteral

/-- The statement that the words of a line make; none for a line with no word. -/
def statementOf : List (List Char) → Except TextError (Option ScriptLine)
  | [] => .ok none
  | [name, data] =>
    if name = ['E', 'N', 'C', 'O', 'D', 'E'] then
      match hexLiteral? data with
      | some ds => checked (.encode ds)
      | none => .error .badLiteral
    else .error .noSuchForm
  | [name, data, comma, code] =>
    if name = ['V', 'E', 'R', 'I', 'F', 'Y'] ∧ comma = [','] then
      match hexLiteral? data, hexLiteral? code with
      | some ds, some cs => checked (.verify ds cs)
      | _, _ => .error .badLiteral
    else .error .noSuchForm
  | _ => .error .noSuchForm

/-- Read one line of a script. -/
def parseLine (line : List Char) : Except TextError (Option ScriptLine) := statementOf (wordsFrom [] (dropComment line))

/-- The requests of a script, line by line, or the first error. -/
def assemble : List (List Char) → Except TextError (List Request)
  | [] => .ok []
  | line :: rest =>
    match parseLine line, assemble rest with
    | .error e, _ => .error e
    | .ok _, .error e => .error e
    | .ok none, .ok rs => .ok rs
    | .ok (some l), .ok rs => .ok (encode (instrOfLine l) :: rs)

/-- The character of a hexadecimal digit, in the capitals that the spec writes. -/
def hexChar (d : Fin 16) : Char := if d.val < 10 then Char.ofNat (48 + d.val) else Char.ofNat (55 + d.val)

/-- A literal as text (R49). -/
def literalText (ds : List (Fin 16)) : List Char := '0' :: 'x' :: ds.map hexChar

/-- A statement as text (R49). -/
def statementText : ScriptLine → List Char
  | .encode data => ['E', 'N', 'C', 'O', 'D', 'E', ' '] ++ literalText data
  | .verify data code => ['V', 'E', 'R', 'I', 'F', 'Y', ' '] ++ literalText data ++ [',', ' '] ++ literalText code

end Sys2Proof.Machine
end

