-- ==== Sys2Proof/Safety.lean ====
section
/-! DEFINITION. The terms that claims about the machine use: the invariant of a safe state, a safe run, what a request is to return,
and bit errors in a received pair. -/

namespace Sys2Proof.Machine

/-- The invariant: every response read so far is one that the block can give; none of them carries the status `0b11`, which is never
driven (R45). -/
def State.Inv (s : State) : Prop := ∀ x ∈ s.responses, x.legal = true

/-- A safe run of `n` steps: no step faults or refuses, and the invariant holds at the end. -/
def SafeRun (n : Nat) (s : State) : Prop := ∃ t, Host.Core.run Sys2Proof.core n s = .next t ∧ t.Inv

/-- The response of VERIFY on an outcome (R40, R73). -/
def verdictOf (data : Word) (o : VerifyOutcome) : Response := .verdict (packRsp (o.dataOut data) o.status)

/-- What an instruction is to return, from its operands alone (R13, R40). -/
def resultOf : Instr → Response
  | .encode data _ => .code (secdedEncode data)
  | .verify data code => verdictOf data (verifyAndCorrect data code)

/-- What a request is to return. -/
def respond (r : Request) : Response := resultOf (decodeRequest r)

/-- A received pair: a payload word and its stored code. Its 72 bits are the 64 payload bits and the 8 code bits. -/
structure Received where
  data : Word
  code : Code
deriving DecidableEq, Repr

/-- The codeword of a word (00_scope.md, glossary). -/
def codewordOf (data : Word) : Received := ⟨data, secdedEncode data⟩

/-- Flip one of the 72 bits: positions 0..63 are the payload bits, positions 64..71 the code bits 0..7. -/
def Received.flip (p : Fin 72) (x : Received) : Received :=
  if p.val < 64 then ⟨x.data ^^^ (1#64 <<< p.val), x.code⟩ else ⟨x.data, x.code ^^^ (1#8 <<< (p.val - 64))⟩

/-- VERIFY on a received pair. -/
def Received.verify (x : Received) : VerifyOutcome := verifyAndCorrect x.data x.code

/-- The payload bit whose column is the syndrome of a flip of code bit `b` (R79's table); code bit 0 has none. -/
def twinOfCodeBit : Fin 8 → Option (Fin 64)
  | 0 => none
  | 1 => some 62
  | 2 => some 61
  | 3 => some 59
  | 4 => some 55
  | 5 => some 47
  | 6 => some 31
  | 7 => some 63

/-- ENCODE with Hamming bit 6 replaced by a parity over the mask `k`: what R65 says a model must not do. -/
def encodeWithParityBitSix (k data : Word) : Code :=
  let h : Hamming := BitVec.ofBool (parity64 (data &&& k)) ++ (hamming7 data).extractLsb' 0 6
  h ++ BitVec.ofBool (globalParity data h)

/-- All 256 code values. -/
def allCodes : List Code := (List.range 256).map (BitVec.ofNat 8)

/-- All pairs of two different bits of the 72, the lower first. -/
def bitPairs : List (Fin 72 × Fin 72) :=
  (List.finRange 72).flatMap fun p => ((List.finRange 72).filter fun q => p < q).map fun q => (p, q)

/-- The seven double errors that leave a codeword (R80): a payload bit and the code bit whose twin it is. -/
def Undetectable (p q : Fin 72) : Prop :=
  ∃ i : Fin 64, ∃ b : Fin 8, twinOfCodeBit b = some i ∧ p.val = i.val ∧ q.val = 64 + b.val

end Sys2Proof.Machine
end

