-- ==== Sys2Proof/Certificates/Slice0/Obligations.lean ====
section
/-! DEFINITION. The statements for the provers, from the numbered rules of spec/. -/

open Sys2Proof Sys2Proof.Machine

/-! ### Requests and steps -/

/-- The request words that 95_test_vectors.md V11 writes out, decoded as R40 lays them out. -/
def Obligations.DecodesTheWordsOfTheRequestTable : Prop :=
  decodeNumber 0x0000000000000000000 = .ok (.encode 0x0000000000000000#64 0x00#8) ∧
  decodeNumber 0x0000000000000000002 = .ok (.encode 0x0000000000000001#64 0x00#8) ∧
  decodeNumber 0x0010000000000000000 = .ok (.encode 0x8000000000000000#64 0x00#8) ∧
  decodeNumber 0x001BD5B7DDF95FDE01A = .ok (.encode 0xDEADBEEFCAFEF00D#64 0x00#8) ∧
  decodeNumber 0x1FFBD5B7DDF95FDE01A = .ok (.encode 0xDEADBEEFCAFEF00D#64 0xFF#8) ∧
  decodeNumber 0x11BBD5B7DDF95FDE01B = .ok (.verify 0xDEADBEEFCAFEF00D#64 0x8D#8) ∧
  decodeNumber 0x1000000000000000001 = .ok (.verify 0x0000000000000000#64 0x80#8)

/-- R51: decoding a request is total: `req[0]` alone selects the operation, the operands are the fields of R40, and no request is
refused. -/
def Obligations.EveryRequestSelectsOneOperation : Prop :=
  ∀ r : Request,
    (r.getLsbD 0 = false → decodeRequest r = .encode ((r >>> 1).setWidth 64) ((r >>> 65).setWidth 8)) ∧
    (r.getLsbD 0 = true → decodeRequest r = .verify ((r >>> 1).setWidth 64) ((r >>> 65).setWidth 8)) ∧
    (decodeRequest r).wellFormed = true ∧
    ∀ s : State, ∃ t, exec (decodeRequest r) s = .next t

/-- R40, R48: the decoder and the encoder of requests are inverse to each other, on every instruction and on every request. That
requests are also read as numbers, and that a number from 2^73 on is refused by the name `moreThan73Bits`, is the model's choice
(log entry 11, DESIGN CHOICE). -/
def Obligations.DecodeAndEncodeAgree : Prop :=
  (∀ i : Instr, decodeRequest (encode i) = i) ∧
  (∀ r : Request, encode (decodeRequest r) = r) ∧
  (∀ (w : Nat) (i : Instr), decodeNumber w = .ok i ↔ w = (encode i).toNat) ∧
  (∀ w : Nat, 2 ^ 73 ≤ w → decodeNumber w = .error .moreThan73Bits)

/-- A step is `exec` of the decoded next request, which is taken off the queue. With no request waiting nothing changes: that clause
is the model's own choice (log entry 3). -/
def Obligations.StepRunsTheDecodedRequest : Prop :=
  (∀ (s : State) (r : Request) (rest : List Request), s.requests = r :: rest →
    step s = exec (decodeRequest r) { s with requests := rest }) ∧
  (∀ s : State, s.requests = [] → step s = .next s)

/-- The word that `withFetchWord` places is the one that the next step runs, on the state as it was (the model's own way of loading,
log entry 1). -/
def Obligations.StepRunsThePlacedWord : Prop :=
  ∀ (s : State) (nbits w : Nat) (i : Instr), decodeTableWord nbits w = some i →
    step (s.withFetchWord nbits w) = exec i s

/-! ### The encode family -/

/-- ENCODE answers, on every state and every operand, a next state with one more response: a code whose bits 7:1 are HAMMING7(data)
and whose bit 0 is PARITY64(data) XOR PARITY64(zext(h)) (R55), with the rule's corner cases and its example. That the next state
is otherwise the old one but for the level on `enc_data`, which stays after the transaction, is the model's choice (log entry 5,
DESIGN CHOICE). -/
def Obligations.EncodeReturnsTheSecdedCode : Prop :=
  (∀ (data : Word) (unused : Code) (s : State), ∃ code : Code,
    exec (.encode data unused) s =
      .next { s with encData := data, responses := s.responses ++ [.code code] } ∧
    code.extractLsb' 1 7 = hamming7 data ∧
    code.getLsbD 0 = (parity64 data ^^ parity64 ((hamming7 data).setWidth 64))) ∧
  (∀ x ∈ ([(0x0000000000000000#64, 0x00#8), (0x8000000000000000#64, 0x80#8), (0xFFFFFFFFFFFFFFFF#64, 0x81#8),
      (0x0000000000000001#64, 0x7F#8), (0x8000000000000001#64, 0xFF#8), (0x5555555555555555#64, 0x00#8),
      (0xDEADBEEFCAFEF00D#64, 0x8D#8)] : List (Word × Code)),
    ∀ (unused : Code) (s : State),
      exec (.encode x.1 unused) s = .next { s with encData := x.1, responses := s.responses ++ [.code x.2] })

/-- R47, D19: two ENCODE requests that agree on `op` and `data` have the same effect, whatever their `code` fields. -/
def Obligations.EncodeIgnoresTheCodeField : Prop :=
  ∀ (r r' : Request) (s : State), r.getLsbD 0 = false → r.setWidth 65 = r'.setWidth 65 →
    step (s.present r) = step (s.present r')

/-- R53: PARITY64 is the loop of the rule's pseudocode, which is popcount(v) mod 2; with the rule's corner cases and examples. The
model computes it as the shift-xor-fold that R66 names. -/
def Obligations.ParityFoldIsTheLoop : Prop :=
  (∀ v : Word, parity64 v = parityLoop 64 v ∧ parity64 v = decide (popcount v % 2 = 1)) ∧
  parity64 0#64 = false ∧ parity64 0xFFFFFFFFFFFFFFFF#64 = false ∧
  (∀ i : Fin 64, parity64 (1#64 <<< i.val) = true) ∧
  (∀ h : Hamming, parity64 (h.setWidth 64) = decide (popcount h % 2 = 1)) ∧
  parity64 0x8000000000000001#64 = false ∧ parity64 0x0000000000000007#64 = true

/-- R54: bits 0..5 of HAMMING7 are the parities under the masks and bit 6 is `data[63]`; bits 0..5 do not depend on `data[63]`; with
the rule's values. -/
def Obligations.HammingBitsAreTheCoverageParities : Prop :=
  (∀ data : Word, (∀ j : Fin 6, (hamming7 data).getLsbD j.val = parity64 (data &&& maskTable[j])) ∧
    (hamming7 data).getLsbD 6 = data.getLsbD 63 ∧
    (hamming7 (data ^^^ (1#64 <<< 63))).extractLsb' 0 6 = (hamming7 data).extractLsb' 0 6) ∧
  hamming7 0#64 = 0x00#7 ∧ hamming7 0xFFFFFFFFFFFFFFFF#64 = 0x40#7 ∧
  hamming7 0x5555555555555555#64 = 0x00#7 ∧ hamming7 0xDEADBEEFCAFEF00D#64 = 0x46#7

/-- R41, R42: the layouts. The Hamming field, as bits 0..6 of a byte whose bit 7 is 0, is the source's packing of its bits, and code
bit `j+1` is Hamming bit `j`. -/
def Obligations.HammingFieldPackingAndCodeLayout : Prop :=
  ∀ data : Word,
    (let bit (j : Fin 6) : BitVec 8 := (BitVec.ofBool (parity64 (data &&& maskTable[j]))).setWidth 8
     (hamming7 data).setWidth 8 =
      bit 0 ||| bit 1 <<< 1 ||| bit 2 <<< 2 ||| bit 3 <<< 3 ||| bit 4 <<< 4 ||| bit 5 <<< 5 |||
        ((data >>> 63) &&& 1#64).setWidth 8 <<< 6) ∧
    ((hamming7 data).setWidth 8).getLsbD 7 = false ∧
    (∀ j : Fin 7, (secdedEncode data).getLsbD (j.val + 1) = (hamming7 data).getLsbD j.val) ∧
    (secdedEncode data).getLsbD 7 = data.getLsbD 63 ∧
    (secdedEncode data).getLsbD 0 = globalParity data (hamming7 data)

/-- R56: for `j` in 0..5 Hamming bit `j` is the XOR of `data[i]` over the indices `i` in 0..62 whose bit `j` is 0, and Hamming bit 6
is `data[63]`. -/
def Obligations.HammingBitsInClosedForm : Prop :=
  ∀ data : Word,
    (∀ j : Fin 6, (hamming7 data).getLsbD j.val =
      ((List.range 63).filter fun i => !i.testBit j.val).foldl (fun p i => p ^^ data.getLsbD i) false) ∧
    (hamming7 data).getLsbD 6 = data.getLsbD 63

/-- R57: PARITY64, HAMMING7 and ENCODE are linear over XOR and map 0 to 0. -/
def Obligations.EncodingIsLinearOverXor : Prop :=
  (∀ a b : Word, parity64 (a ^^^ b) = (parity64 a ^^ parity64 b) ∧
    hamming7 (a ^^^ b) = hamming7 a ^^^ hamming7 b ∧
    secdedEncode (a ^^^ b) = secdedEncode a ^^^ secdedEncode b) ∧
  parity64 0#64 = false ∧ hamming7 0#64 = 0#7 ∧ secdedEncode 0#64 = 0#8

/-- R58, R61: the columns. Each in closed form (`NOT i[5:0]`, which is `63 - i`; column 63 is 0x40); distinct and non-zero; equal to
the membership vector over the masks; HAMMING7 and ENCODE are the XOR of the columns of the set bits; ENCODE of one bit; and the
seven columns with a single bit set. -/
def Obligations.ColumnsOfThePayloadBits : Prop :=
  (∀ i : Fin 64, i.val < 63 → column i = BitVec.ofNat 7 (63 - i.val) ∧
    column i = (~~~ (BitVec.ofNat 6 i.val)).setWidth 7) ∧
  column 63 = 0x40#7 ∧
  (∀ i : Fin 64, column i ≠ 0#7) ∧ (∀ i j : Fin 64, column i = column j → i = j) ∧
  (∀ (i : Fin 64) (k : Fin 6), maskTable[k].getLsbD i.val = (column i).getLsbD k.val) ∧
  (∀ data : Word, hamming7 data =
    (List.finRange 64).foldl (fun x i => if data.getLsbD i.val then x ^^^ column i else x) 0#7) ∧
  (∀ data : Word, secdedEncode data =
    (List.finRange 64).foldl (fun x i => if data.getLsbD i.val then x ^^^ secdedEncode (1#64 <<< i.val) else x) 0#8) ∧
  (∀ i : Fin 64, secdedEncode (1#64 <<< i.val) =
    column i ++ BitVec.ofBool (true ^^ parity64 ((column i).setWidth 64))) ∧
  column 62 = 0x01#7 ∧ column 61 = 0x02#7 ∧ column 59 = 0x04#7 ∧ column 55 = 0x08#7 ∧ column 47 = 0x10#7 ∧
  column 31 = 0x20#7 ∧
  (∀ i : Fin 64, popcount (column i) = 1 ↔ i ∈ ([62, 61, 59, 55, 47, 31, 63] : List (Fin 64)))

/-- R59: the code has the parity of the word, so the 72 bits of a codeword have even parity together. -/
def Obligations.CodeParityEqualsDataParity : Prop :=
  ∀ data : Word,
    decide (popcount (secdedEncode data) % 2 = 1) = parity64 data ∧
    (popcount data + popcount (secdedEncode data)) % 2 = 0

/-- R62: eight linearly independent codes of single-bit words, so every code value occurs, and each is the code of exactly 2^56
words. -/
def Obligations.EveryCodeValueIsTheCodeOfManyWords : Prop :=
  (let index : Vector (Fin 64) 8 := #v[62, 61, 59, 55, 47, 31, 63, 0]
   let value : Vector Code 8 := #v[0x02#8, 0x04#8, 0x08#8, 0x10#8, 0x20#8, 0x40#8, 0x80#8, 0x7F#8]
   (∀ k : Fin 8, secdedEncode (1#64 <<< index[k].val) = value[k]) ∧
   (∀ chosen : Fin 8 → Bool,
     (List.finRange 8).foldl (fun x k => if chosen k then x ^^^ value[k] else x) 0#8 = 0#8 →
       ∀ k, chosen k = false)) ∧
  (∀ code : Code, ∃ data : Word, secdedEncode data = code) ∧
  (∀ code : Code, Nat.card { data : Word // secdedEncode data = code } = 2 ^ 56)

/-- R65: Hamming bit 6 is the raw bit `data[63]`; a parity over any mask other than the single bit 63 in its place changes the code
of exactly half of all words. -/
def Obligations.RawBitSixIsNoOtherParity : Prop :=
  (∀ data : Word, (hamming7 data).getLsbD 6 = data.getLsbD 63) ∧
  (∀ k : Word, k ≠ 0x8000000000000000#64 →
    Nat.card { data : Word // encodeWithParityBitSix k data ≠ secdedEncode data } = 2 ^ 63)

/-! ### The Coverage Mask Table -/

/-- R15: the six constants, and bit `i` of `MASK[k]` is 1 exactly when bit `k` of `i` is 0. -/
def Obligations.MaskTableHoldsTheLiterals : Prop :=
  maskTable = #v[0x5555555555555555#64, 0x3333333333333333#64, 0x0F0F0F0F0F0F0F0F#64,
    0x00FF00FF00FF00FF#64, 0x0000FFFF0000FFFF#64, 0x00000000FFFFFFFF#64] ∧
  (∀ (k : Fin 6) (i : Fin 64), maskTable[k].getLsbD i.val = !i.val.testBit k.val)

/-- R16: the structure of the table. -/
def Obligations.MaskTableCoversEveryBitButTheTop : Prop :=
  (∀ k : Fin 6, maskTable[k].getLsbD 63 = false) ∧
  (∀ i : Fin 64, i.val < 63 → ∃ k : Fin 6, maskTable[k].getLsbD i.val = true) ∧
  (maskTable[0] ||| maskTable[1] ||| maskTable[2] ||| maskTable[3] ||| maskTable[4] ||| maskTable[5]) =
    0x7FFFFFFFFFFFFFFF#64 ∧
  (∀ i : Fin 64, (List.finRange 6).countP (fun k => maskTable[k].getLsbD i.val) =
    6 - popcount (BitVec.ofNat 6 i.val)) ∧
  (∀ k : Fin 6, maskTable[k].getLsbD 0 = true) ∧
  (∀ i ∈ ([31, 47, 55, 59, 61, 62] : List (Fin 64)),
    (List.finRange 6).countP (fun k => maskTable[k].getLsbD i.val) = 1) ∧
  (∀ (i : Fin 64) (k : Fin 6), maskTable[k].getLsbD i.val = (~~~ (BitVec.ofNat 6 i.val)).getLsbD k.val) ∧
  (∀ i j : Fin 64, (∀ k : Fin 6, maskTable[k].getLsbD i.val = maskTable[k].getLsbD j.val) → i = j)

/-! ### The decoder's internal values -/

/-- R43: the two fields of a stored code, which together are the code. -/
def Obligations.StoredCodeSplitsIntoHammingAndParity : Prop :=
  ∀ code : Code, storedHamming code = (code >>> 1).setWidth 7 ∧ storedParity code = code.getLsbD 0 ∧
    storedHamming code ++ BitVec.ofBool (storedParity code) = code

/-- R44, R67: the syndrome is the recomputed Hamming field XOR the stored one; bit `j` says that check `j` disagrees, bit 6 that
`data[63]` differs from stored Hamming bit 6, and 0 that no coverage bit mismatches. -/
def Obligations.SyndromeBitsAreTheDisagreements : Prop :=
  ∀ (data : Word) (code : Code),
    syndrome data code = hamming7 data ^^^ (code >>> 1).setWidth 7 ∧
    (∀ j : Fin 6, (syndrome data code).getLsbD j.val = (parity64 (data &&& maskTable[j]) != code.getLsbD (j.val + 1))) ∧
    (syndrome data code).getLsbD 6 = (data.getLsbD 63 != code.getLsbD 7) ∧
    (syndrome data code = 0#7 ↔ ∀ j : Fin 7, (hamming7 data).getLsbD j.val = code.getLsbD (j.val + 1))

/-- R68: `q` is 1 when the recomputed code and the stored one differ in an odd number of bits, and it is the parity of all 72 bits
received. -/
def Obligations.OverallParityHasTwoForms : Prop :=
  ∀ (data : Word) (code : Code),
    overallParity data code = parity64 ((secdedEncode data ^^^ code).setWidth 64) ∧
    overallParity data code = decide (popcount (secdedEncode data ^^^ code) % 2 = 1) ∧
    overallParity data code = (parity64 data ^^ parity64 (code.setWidth 64))

/-- R69: the syndrome and `q` decide whether the recomputed code equals the stored one. -/
def Obligations.SyndromeAndParityDecideCodeEquality : Prop :=
  ∀ (data : Word) (code : Code),
    secdedEncode data ^^^ code =
      syndrome data code ++ BitVec.ofBool ((secdedEncode data).getLsbD 0 ^^ code.getLsbD 0) ∧
    (syndrome data code = 0#7 → (secdedEncode data = code ↔ overallParity data code = false)) ∧
    (syndrome data code ≠ 0#7 → secdedEncode data ≠ code) ∧
    ((syndrome data code = 0#7 ∧ secdedEncode data = code) ↔
      (syndrome data code = 0#7 ∧ overallParity data code = false))

/-- R70: LOCATE is the inverse of the columns, on the hardware's table and on every table whose columns are distinct and non-zero. -/
def Obligations.LocateInvertsTheColumns : Prop :=
  maskTableOk maskTable = true ∧
  ∀ m : MaskTable, maskTableOk m = true → ∀ s : Syndrome,
    (∀ i : Fin 64, locate s m = some i ↔ column i m = s) ∧
    (locate s m = none ↔ ∀ i : Fin 64, column i m ≠ s)

/-- R71: LOCATE in closed form, for the hardware's masks. -/
def Obligations.LocateInClosedForm : Prop :=
  locate 0x00#7 = none ∧
  (∀ s : Syndrome, 0x01#7 ≤ s → s ≤ 0x3F#7 → (locate s).map Fin.val = some (63 - s.toNat)) ∧
  locate 0x40#7 = some 63 ∧
  (∀ s : Syndrome, 0x41#7 ≤ s → locate s = none)

/-! ### The verify family -/

/-- VERIFY answers, on every state and every operand, a next state with one more response, which is `{data_out, status}` for the branch
of R72 that the operands fall under; with the rule's corner cases (syndromes 0x41..0x7F; a flipped code bit other than bit 0; the
seven double errors) and its example. That the next state is otherwise the old one but for the levels on the decoder's inputs,
which stay after the transaction, is the model's choice (log entry 5, DESIGN CHOICE). -/
def Obligations.VerifyReturnsTheOutcome : Prop :=
  (∀ (data : Word) (code : Code) (s : State), ∃ rsp : VerifyRsp,
    exec (.verify data code) s =
      .next { s with decData := data, decCode := code, responses := s.responses ++ [.verdict rsp] } ∧
    (let syn : Syndrome := hamming7 data ^^^ code.extractLsb' 1 7
     let q : Bool := parity64 ((secdedEncode data ^^^ code).setWidth 64)
     (syn = 0#7 → q = false → rsp = data ++ 0b00#2) ∧
     (syn = 0#7 → q = true → rsp = data ++ 0b01#2) ∧
     (syn ≠ 0#7 → q = false → rsp = data ++ 0b10#2) ∧
     (syn ≠ 0#7 → q = true → ∀ i : Fin 64, column i = syn → rsp = (data ^^^ (1#64 <<< i.val)) ++ 0b01#2) ∧
     (syn ≠ 0#7 → q = true → (∀ i : Fin 64, column i ≠ syn) → rsp = data ++ 0b10#2) ∧
     (0x41#7 ≤ syn → q = true → rsp = data ++ 0b10#2))) ∧
  (∀ (d : Word) (b : Fin 8), b ≠ 0 →
    ∃ w : Word, verifyAndCorrect d (secdedEncode d ^^^ (1#8 <<< b.val)) = .corrected w ∧ w ≠ d) ∧
  (∀ (d : Word) (b : Fin 8) (i : Fin 64), twinOfCodeBit b = some i →
    verifyAndCorrect (d ^^^ (1#64 <<< i.val)) (secdedEncode d ^^^ (1#8 <<< b.val)) = .clean) ∧
  (∀ s : State, exec (.verify 0xDEADBEEFCAFEF00C#64 0x8D#8) s =
    .next { s with
      decData := 0xDEADBEEFCAFEF00C#64, decCode := 0x8D#8
      responses := s.responses ++ [.verdict (0xDEADBEEFCAFEF00D#64 ++ 0b01#2)] })

/-- R45, R73: what each outcome drives on `dec_status` and `dec_data_out`, that a VERIFY request returns just these, and that `0b11` is
never driven. That the outputs still show the outcome in the state after the step is the model's choice, which leaves the levels
on the decoder's inputs (log entry 5, DESIGN CHOICE). -/
def Obligations.OutcomeDrivesStatusAndWord : Prop :=
  (∀ (data : Word) (w : Word),
    (VerifyOutcome.clean.status = 0b00#2 ∧ VerifyOutcome.clean.dataOut data = data) ∧
    ((VerifyOutcome.corrected w).status = 0b01#2 ∧ (VerifyOutcome.corrected w).dataOut data = w) ∧
    (VerifyOutcome.uncorrectable.status = 0b10#2 ∧ VerifyOutcome.uncorrectable.dataOut data = data)) ∧
  (∀ (data : Word) (code : Code) (s : State), ∃ t rsp,
    exec (.verify data code) s = .next t ∧ t.responses = s.responses ++ [.verdict rsp] ∧
    rsp.extractLsb' 0 2 = t.decStatus ∧ rsp.extractLsb' 2 64 = t.decDataOut ∧
    t.decStatus = (verifyAndCorrect data code).status ∧
    t.decDataOut = (verifyAndCorrect data code).dataOut data) ∧
  (∀ s : State, s.decStatus ≠ 0b11#2)

/-- R47, 93_implementation_defined.md I5: a consumer that reads what the block drives gets the outcome, and one that reads `0b11` gets
a fault of the interface. -/
def Obligations.ConsumerReadsTheOutcome : Prop :=
  (∀ s : State, readOutcome s.decStatus s.decDataOut = .ok (verifyAndCorrect s.decData s.decCode)) ∧
  (∀ w : Word, readOutcome 0b11#2 w = .error .interfaceStatus)

/-- R76: `s = 0` and `q = 1` happen exactly when the codes differ in bit 0 only, and VERIFY then returns `Corrected(data)`. -/
def Obligations.CodeBitZeroMismatchKeepsTheWord : Prop :=
  ∀ (data : Word) (code : Code),
    ((syndrome data code = 0#7 ∧ overallParity data code = true) ↔ code = secdedEncode data ^^^ 0x01#8) ∧
    (syndrome data code = 0#7 → overallParity data code = true → verifyAndCorrect data code = .corrected data)

/-- R77: the clean round trip, also as a transaction. That the next state is otherwise the old one but for the levels on the decoder's
inputs, which stay, is the model's choice (log entry 5, DESIGN CHOICE). -/
def Obligations.CleanRoundTrip : Prop :=
  ∀ (d : Word) (s : State),
    verifyAndCorrect d (secdedEncode d) = .clean ∧
    exec (.verify d (secdedEncode d)) s =
      .next { s with
        decData := d, decCode := secdedEncode d
        responses := s.responses ++ [.verdict (d ++ 0b00#2)] }

/-- R78: every single payload-bit error is corrected, also as a transaction. That the next state is otherwise the old one but for the
levels on the decoder's inputs, which stay, is the model's choice (log entry 5, DESIGN CHOICE). -/
def Obligations.SinglePayloadErrorsAreCorrected : Prop :=
  ∀ (d : Word) (i : Fin 64) (s : State),
    verifyAndCorrect (d ^^^ (1#64 <<< i.val)) (secdedEncode d) = .corrected d ∧
    exec (.verify (d ^^^ (1#64 <<< i.val)) (secdedEncode d)) s =
      .next { s with
        decData := d ^^^ (1#64 <<< i.val), decCode := secdedEncode d
        responses := s.responses ++ [.verdict (d ++ 0b01#2)] }

/-- R79: single code-bit errors. Code bit 0 leaves the word right; code bit `b` in 1..7 is miscorrected into payload bit `i_b`, and is
not to be told from a flip of that payload bit; none is Clean. -/
def Obligations.SingleCodeErrorsAreMiscorrected : Prop :=
  ∀ (d : Word) (b : Fin 8),
    let c : Code := secdedEncode d ^^^ (1#8 <<< b.val)
    overallParity d c = true ∧ verifyAndCorrect d c ≠ .clean ∧
    (b = 0 → syndrome d c = 0#7 ∧ verifyAndCorrect d c = .corrected d) ∧
    (b ≠ 0 → syndrome d c = 1#7 <<< (b.val - 1) ∧
      ∃ i : Fin 64, twinOfCodeBit b = some i ∧ syndrome d c = column i ∧
        verifyAndCorrect d c = .corrected (d ^^^ (1#64 <<< i.val)) ∧ d ^^^ (1#64 <<< i.val) ≠ d ∧
        syndrome (d ^^^ (1#64 <<< i.val)) (secdedEncode d) = syndrome d c ∧
        overallParity (d ^^^ (1#64 <<< i.val)) (secdedEncode d) = overallParity d c)

/-- R80: double errors. Of the 2556 pairs of different bits of the 72, the seven of the rule decode Clean with a corrupted word (the
pair is itself a codeword), and the other 2549 are Uncorrectable; `q` is 0 for all of them. -/
def Obligations.DoubleErrorsAreDetectedButSeven : Prop :=
  ∀ d : Word,
    (∀ p q : Fin 72, p < q →
      let x := ((codewordOf d).flip p).flip q
      overallParity x.data x.code = false ∧
      (Undetectable p q → syndrome x.data x.code = 0#7 ∧ x.verify = .clean ∧ x.data ≠ d ∧ x = codewordOf x.data) ∧
      (¬ Undetectable p q → syndrome x.data x.code ≠ 0#7 ∧ x.verify = .uncorrectable)) ∧
    (∀ i j : Fin 64, i ≠ j →
      syndrome (d ^^^ (1#64 <<< i.val) ^^^ (1#64 <<< j.val)) (secdedEncode d) = column i ^^^ column j) ∧
    (∀ i : Fin 64, syndrome (d ^^^ (1#64 <<< i.val)) (secdedEncode d ^^^ 1#8) = column i) ∧
    (∀ p q : Fin 72, Undetectable p q ↔
      (p.val, q.val) ∈ ([(62, 65), (61, 66), (59, 67), (55, 68), (47, 69), (31, 70), (63, 71)] : List (Nat × Nat))) ∧
    bitPairs.length = 2556 ∧
    bitPairs.countP (fun e => ((codewordOf d).flip e.1 |>.flip e.2).verify == .clean) = 7 ∧
    bitPairs.countP (fun e => ((codewordOf d).flip e.1 |>.flip e.2).verify == .uncorrectable) = 2549

/-- R81: with three or more errors any of the three outcomes is returned, for every word: Corrected with a wrong word, Uncorrectable,
and Clean with a wrong word. -/
def Obligations.ThreeOrMoreErrorsPromiseNothing : Prop :=
  ∀ d : Word,
    verifyAndCorrect (d ^^^ 0x0000000000000007#64) (secdedEncode d) = .corrected (d ^^^ 0x000000000000000F#64) ∧
    verifyAndCorrect (d ^^^ 0xE000000000000000#64) (secdedEncode d) = .uncorrectable ∧
    verifyAndCorrect (d ^^^ 0x000000000000000F#64) (secdedEncode d) = .clean

/-- R82: the outcomes of VERIFY on one word over all 256 code values. -/
def Obligations.OutcomeCountsOverAllCodes : Prop :=
  ∀ d : Word,
    allCodes.countP (fun c => verifyAndCorrect d c == .clean) = 1 ∧
    allCodes.countP (fun c => rspStatus (packRsp ((verifyAndCorrect d c).dataOut d) (verifyAndCorrect d c).status) == 0b01#2)
      = 65 ∧
    allCodes.countP (fun c => verifyAndCorrect d c == .corrected d && syndrome d c == 0#7 && overallParity d c) = 1 ∧
    allCodes.countP (fun c => (List.finRange 64).any fun i => verifyAndCorrect d c == .corrected (d ^^^ (1#64 <<< i.val)))
      = 64 ∧
    allCodes.countP (fun c => verifyAndCorrect d c == .uncorrectable) = 190 ∧
    allCodes.countP (fun c => verifyAndCorrect d c == .uncorrectable && syndrome d c != 0#7 && !overallParity d c) = 127 ∧
    allCodes.countP (fun c => verifyAndCorrect d c == .uncorrectable && decide (0x41#7 ≤ syndrome d c) && overallParity d c)
      = 63

/-- R86, R73: an Uncorrectable outcome is a result: it returns `0b10` with the word unchanged and stops nothing. That the next state is
otherwise the old one but for the levels on the decoder's inputs, which stay, is the model's choice (log entry 5, DESIGN CHOICE). -/
def Obligations.UncorrectableIsAResult : Prop :=
  ∀ (data : Word) (code : Code) (s : State), verifyAndCorrect data code = .uncorrectable →
    exec (.verify data code) s =
      .next { s with
        decData := data, decCode := code
        responses := s.responses ++ [.verdict (data ++ 0b10#2)] }

/-- R105: after `VERIFY(data, code) = Corrected(w)`: where `w` differs from `data`, one payload bit was flipped, the stored code already
matches `w`, and `VERIFY(w, code)` is Clean; where `w` is `data`, the code is off in bit 0, the pair is Corrected again, and it is
Clean once the caller stores `ENCODE(data)`. -/
def Obligations.WhatToWriteBackAfterACorrection : Prop :=
  ∀ (data : Word) (code : Code) (w : Word), verifyAndCorrect data code = .corrected w →
    (w ≠ data → (∃ i : Fin 64, w = data ^^^ (1#64 <<< i.val) ∧ syndrome data code = column i) ∧
      overallParity data code = true ∧ secdedEncode w = code ∧ verifyAndCorrect w code = .clean) ∧
    (w = data → syndrome data code = 0#7 ∧ overallParity data code = true ∧
      code = secdedEncode data ^^^ 0x01#8 ∧ verifyAndCorrect w code = .corrected data ∧
      verifyAndCorrect w (secdedEncode data) = .clean)

/-- 93_implementation_defined.md I2: the guarantees of R77, of R78 and of R80's payload pairs hold for every mask table whose columns are
distinct and non-zero, with LOCATE taken from R70. -/
def Obligations.AnyTableOfDistinctColumnsCorrects : Prop :=
  ∀ m : MaskTable, maskTableOk m = true → ∀ d : Word,
    verifyAndCorrect d (secdedEncode d m) m = .clean ∧
    (∀ i : Fin 64, verifyAndCorrect (d ^^^ (1#64 <<< i.val)) (secdedEncode d m) m = .corrected d) ∧
    (∀ i j : Fin 64, i ≠ j →
      verifyAndCorrect (d ^^^ (1#64 <<< i.val) ^^^ (1#64 <<< j.val)) (secdedEncode d m) m = .uncorrectable)

/-! ### The whole machine -/

/-- The frame of each operation. R38, R88: a transaction on one datapath does not affect the other. That the other datapath's inputs
keep their levels during the transaction, and that the driven levels, and with them all the outputs, stay after it, is the model's
choice (log entry 5, DESIGN CHOICE, unsafe for a claim about the outputs between transactions); so is that the waiting requests stay
as they are and one response is added (log entry 1, DESIGN CHOICE). -/
def Obligations.DatapathsAreIndependent : Prop :=
  (∀ (data : Word) (unused : Code) (s t : State), exec (.encode data unused) s = .next t →
    t.decData = s.decData ∧ t.decCode = s.decCode ∧ t.decStatus = s.decStatus ∧ t.decDataOut = s.decDataOut ∧
    t.encData = data ∧ t.encCode = secdedEncode data ∧
    t.requests = s.requests ∧ t.responses = s.responses ++ [.code (secdedEncode data)]) ∧
  (∀ (data : Word) (code : Code) (s t : State), exec (.verify data code) s = .next t →
    t.encData = s.encData ∧ t.encCode = s.encCode ∧ t.decData = data ∧ t.decCode = code ∧
    t.decStatus = (verifyAndCorrect data code).status ∧
    t.decDataOut = (verifyAndCorrect data code).dataOut data ∧
    t.requests = s.requests ∧
    t.responses = s.responses ++
      [.verdict ((verifyAndCorrect data code).dataOut data ++ (verifyAndCorrect data code).status)])

/-- R38, R52: both datapaths are always active. In any state the outputs are the functions of the present inputs, whatever drove them, and
a transaction returns what the ports show for its operands. -/
def Obligations.OutputsFollowTheInputs : Prop :=
  (∀ s : State, s.encCode = secdedEncode s.encData ∧
    s.decStatus = (verifyAndCorrect s.decData s.decCode).status ∧
    s.decDataOut = (verifyAndCorrect s.decData s.decCode).dataOut s.decData) ∧
  (∀ (s : State) (a d : Word) (c : Code),
    (s.drivePorts a d c).encCode = secdedEncode a ∧
    (s.drivePorts a d c).decStatus = (verifyAndCorrect d c).status ∧
    (s.drivePorts a d c).decDataOut = (verifyAndCorrect d c).dataOut d) ∧
  (∀ (s : State) (a d : Word) (c unused : Code), ∃ t u,
    exec (.encode a unused) s = .next t ∧
    t.responses = s.responses ++ [.code (s.drivePorts a d c).encCode] ∧
    exec (.verify d c) s = .next u ∧
    u.responses = s.responses ++ [.verdict ((s.drivePorts a d c).decDataOut ++ (s.drivePorts a d c).decStatus)])

/-- R47, R51, R85: no operation is refused and none faults, in no state; nor does a run of any length. -/
def Obligations.NoStepFaultsOrRefuses : Prop :=
  (∀ (i : Instr) (s : State), ∃ t, exec i s = .next t) ∧
  (∀ s : State, ∃ t, step s = .next t) ∧
  (∀ (n : Nat) (s : State), ∃ t, Host.Core.run Sys2Proof.core n s = .next t)

/-- R13, R31, R60, R107: a request returns one and the same response in every state, whatever the levels on the inputs and whatever ran
before. -/
def Obligations.ResultsDependOnTheRequestAlone : Prop :=
  ∀ r : Request, ∃ x : Response, ∀ s : State, ∃ t,
    step (s.present r) = .next t ∧ t.responses = s.responses ++ [x] ∧ t.requests = s.requests

/-- R33, R102: a script of any length, run from any state, gives each transaction the result of its own operands; two orders of
the same requests, from any two states, give the same requests the same results; and a script given by `State.load` runs after the
requests already waiting (D22; that way of giving a script is the model's choice, log entry 1, DESIGN CHOICE). -/
def Obligations.ScriptGivesEachRequestItsOwnResult : Prop :=
  (∀ (rs : List Request) (s : State), ∃ t,
    Host.Core.run Sys2Proof.core rs.length { s with requests := rs ++ s.requests } = .next t ∧
    t.requests = s.requests ∧ t.responses = s.responses ++ rs.map respond) ∧
  (∀ (rs rs' : List Request) (s s' t t' : State), rs.Perm rs' →
    Host.Core.run Sys2Proof.core rs.length { s with requests := rs ++ s.requests } = .next t →
    Host.Core.run Sys2Proof.core rs'.length { s' with requests := rs' ++ s'.requests } = .next t' →
    (rs.zip (t.responses.drop s.responses.length)).Perm (rs'.zip (t'.responses.drop s'.responses.length))) ∧
  (∀ (rs : List Request) (s : State), ∃ t,
    Host.Core.run Sys2Proof.core (s.requests.length + rs.length) (s.load rs) = .next t ∧
    t.requests = [] ∧ t.responses = s.responses ++ s.requests.map respond ++ rs.map respond)

/-- The machine after power-up: R24 and R99 give nothing for a reset to set; that the input signals are driven with 0, that no request
waits and that no response has been read are the model's choice (log entry 2, DESIGN CHOICE). The three outputs are the functions of
the inputs (R24). -/
def Obligations.ResetHasNothingWaiting : Prop :=
  State.reset.requests = [] ∧ State.reset.responses = [] ∧
  State.reset.encData = 0#64 ∧ State.reset.decData = 0#64 ∧ State.reset.decCode = 0#8 ∧
  State.reset.encCode = secdedEncode State.reset.encData ∧
  State.reset.decStatus = (verifyAndCorrect State.reset.decData State.reset.decCode).status ∧
  State.reset.decDataOut =
    (verifyAndCorrect State.reset.decData State.reset.decCode).dataOut State.reset.decData

/-- The invariant holds after power-up. -/
def Obligations.ResetSatisfiesTheInvariant : Prop := State.reset.Inv

/-- R45: every step keeps the invariant that no response read carries the status `0b11`, from every state that has it. -/
def Obligations.StepKeepsTheInvariant : Prop :=
  ∀ s t : State, s.Inv → step s = .next t → t.Inv

/-- Every run of any length from a state with the invariant is safe: it answers a next state, and the invariant holds there. -/
def Obligations.EveryRunIsSafe : Prop :=
  ∀ (n : Nat) (s : State), s.Inv → SafeRun n s

/-! ### The textual form -/

/-- R49's textual form. The form of the two statements, the comment behind `;`, the allowed numbers of digits and the zero extension of
the literals are R49's. How white space and the case of letters are read, that a literal of another length is refused by the name
`badLiteral`, that ENCODE puts 0 in the request's ignored field, and that a script is assembled line by line into requests are the
model's choice (log entry 7, DESIGN CHOICE). Reading the text of a well-formed statement, with or without a comment behind it, gives
the statement; one with a literal of a wrong length is refused; the operands of its instruction have the values of its literals, not
cut; and the texts of well-formed statements, a comment behind each or not, assemble to the requests of their instructions. -/
def Obligations.ScriptTextReadsBack : Prop :=
  (∀ (l : ScriptLine) (comment : List Char), l.wellFormed = true → comment = [] ∨ comment.head? = some ';' →
    parseLine (statementText l ++ comment) = .ok (some l)) ∧
  (∀ l : ScriptLine, l.wellFormed = false → parseLine (statementText l) = .error .badLiteral) ∧
  (∀ data : List (Fin 16), (ScriptLine.encode data).wellFormed = true →
    ∃ w : Word, instrOfLine (.encode data) = .encode w 0#8 ∧ w.toNat = digitsValue data) ∧
  (∀ data code : List (Fin 16), (ScriptLine.verify data code).wellFormed = true →
    ∃ (w : Word) (c : Code), instrOfLine (.verify data code) = .verify w c ∧
      w.toNat = digitsValue data ∧ c.toNat = digitsValue code) ∧
  (∀ script : List (ScriptLine × List Char),
    (∀ x ∈ script, x.1.wellFormed = true ∧ (x.2 = [] ∨ x.2.head? = some ';')) →
    assemble (script.map fun x => statementText x.1 ++ x.2) = .ok (script.map fun x => encode (instrOfLine x.1)))
end

