-- ==== Sys2Proof/Laws/Decode.lean ====
section
/-! SUPPORT. The fields of a request word that is put together as `{code, data, op}` (R40). -/

namespace Sys2Proof

theorem getLsbD_packed (c : Code) (d : Word) (b : BitVec 1) (i : Nat) :
    BitVec.getLsbD (w := 73) (c ++ d ++ b) i =
      if i < 1 then b.getLsbD i else if i - 1 < 64 then d.getLsbD (i - 1) else c.getLsbD (i - 1 - 64) := by
  have h := BitVec.getLsbD_append (x := c ++ d) (y := b) (i := i)
  have h2 := BitVec.getLsbD_append (x := c) (y := d) (i := i - 1)
  exact h.trans (by rw [h2])

theorem opField_append (c : Code) (d : Word) (b : BitVec 1) : opField (c ++ d ++ b) = b.getLsbD 0 := by
  rw [opField, getLsbD_packed, if_pos Nat.one_pos]

theorem dataField_append (c : Code) (d : Word) (b : BitVec 1) : dataField (c ++ d ++ b) = d := by
  apply BitVec.eq_of_getLsbD_eq
  intro i hi
  have h : ¬ 1 + i < 1 := by omega
  have h2 : 1 + i - 1 = i := by omega
  rw [dataField, BitVec.getLsbD_extractLsb', getLsbD_packed, if_neg h, h2, if_pos hi]
  simp [hi]

theorem codeField_append (c : Code) (d : Word) (b : BitVec 1) : codeField (c ++ d ++ b) = c := by
  apply BitVec.eq_of_getLsbD_eq
  intro i hi
  have h : ¬ 65 + i < 1 := by omega
  have h2 : ¬ 65 + i - 1 < 64 := by omega
  have h3 : 65 + i - 1 - 64 = i := by omega
  rw [codeField, BitVec.getLsbD_extractLsb', getLsbD_packed, if_neg h, if_neg h2, h3]
  simp [hi]

/-- A request is its three fields put together. -/
theorem fields_append (r : Request) : codeField r ++ dataField r ++ BitVec.ofBool (opField r) = r := by
  apply BitVec.eq_of_getLsbD_eq
  intro i hi
  simp only [codeField, dataField, opField, BitVec.getLsbD_append, BitVec.getLsbD_extractLsb', BitVec.getLsbD_ofBool]
  rcases Nat.lt_or_ge i 1 with h | h
  · have : i = 0 := by omega
    simp [this]
  · rcases Nat.lt_or_ge i 65 with h2 | h2
    · have e : 1 + (i - 1) = i := by omega
      have h3 : ¬ i < 1 := by omega
      have h4 : i - 1 < 64 := by omega
      simp [h3, h4, e]
    · have e : 65 + (i - 1 - 64) = i := by omega
      have h3 : ¬ i < 1 := by omega
      have h4 : ¬ i - 1 < 64 := by omega
      have h5 : i - 1 - 64 < 8 := by omega
      simp [h3, h4, h5, e]

end Sys2Proof
end

