-- ==== Sys2Proof/Laws/State.lean ====
section
/-! SUPPORT. One lemma per field per update of the state, and the output signals after each. -/

namespace Sys2Proof.Machine

@[simp] theorem State.driveEncoder_encData (s : State) (d : Word) : (s.driveEncoder d).encData = d := rfl
@[simp] theorem State.driveEncoder_decData (s : State) (d : Word) : (s.driveEncoder d).decData = s.decData := rfl
@[simp] theorem State.driveEncoder_decCode (s : State) (d : Word) : (s.driveEncoder d).decCode = s.decCode := rfl
@[simp] theorem State.driveEncoder_requests (s : State) (d : Word) : (s.driveEncoder d).requests = s.requests := rfl
@[simp] theorem State.driveEncoder_responses (s : State) (d : Word) : (s.driveEncoder d).responses = s.responses := rfl

@[simp] theorem State.driveDecoder_encData (s : State) (d : Word) (c : Code) : (s.driveDecoder d c).encData = s.encData := rfl
@[simp] theorem State.driveDecoder_decData (s : State) (d : Word) (c : Code) : (s.driveDecoder d c).decData = d := rfl
@[simp] theorem State.driveDecoder_decCode (s : State) (d : Word) (c : Code) : (s.driveDecoder d c).decCode = c := rfl
@[simp] theorem State.driveDecoder_requests (s : State) (d : Word) (c : Code) : (s.driveDecoder d c).requests = s.requests := rfl
@[simp] theorem State.driveDecoder_responses (s : State) (d : Word) (c : Code) : (s.driveDecoder d c).responses = s.responses := rfl

@[simp] theorem State.drivePorts_encData (s : State) (a d : Word) (c : Code) : (s.drivePorts a d c).encData = a := rfl
@[simp] theorem State.drivePorts_decData (s : State) (a d : Word) (c : Code) : (s.drivePorts a d c).decData = d := rfl
@[simp] theorem State.drivePorts_decCode (s : State) (a d : Word) (c : Code) : (s.drivePorts a d c).decCode = c := rfl
@[simp] theorem State.drivePorts_requests (s : State) (a d : Word) (c : Code) : (s.drivePorts a d c).requests = s.requests := rfl
@[simp] theorem State.drivePorts_responses (s : State) (a d : Word) (c : Code) : (s.drivePorts a d c).responses = s.responses := rfl

@[simp] theorem State.deliver_encData (s : State) (x : Response) : (s.deliver x).encData = s.encData := rfl
@[simp] theorem State.deliver_decData (s : State) (x : Response) : (s.deliver x).decData = s.decData := rfl
@[simp] theorem State.deliver_decCode (s : State) (x : Response) : (s.deliver x).decCode = s.decCode := rfl
@[simp] theorem State.deliver_requests (s : State) (x : Response) : (s.deliver x).requests = s.requests := rfl
@[simp] theorem State.deliver_responses (s : State) (x : Response) : (s.deliver x).responses = s.responses ++ [x] := rfl

@[simp] theorem State.present_encData (s : State) (r : Request) : (s.present r).encData = s.encData := rfl
@[simp] theorem State.present_decData (s : State) (r : Request) : (s.present r).decData = s.decData := rfl
@[simp] theorem State.present_decCode (s : State) (r : Request) : (s.present r).decCode = s.decCode := rfl
@[simp] theorem State.present_requests (s : State) (r : Request) : (s.present r).requests = r :: s.requests := rfl
@[simp] theorem State.present_responses (s : State) (r : Request) : (s.present r).responses = s.responses := rfl

@[simp] theorem State.load_encData (s : State) (rs : List Request) : (s.load rs).encData = s.encData := rfl
@[simp] theorem State.load_decData (s : State) (rs : List Request) : (s.load rs).decData = s.decData := rfl
@[simp] theorem State.load_decCode (s : State) (rs : List Request) : (s.load rs).decCode = s.decCode := rfl
@[simp] theorem State.load_requests (s : State) (rs : List Request) : (s.load rs).requests = s.requests ++ rs := rfl
@[simp] theorem State.load_responses (s : State) (rs : List Request) : (s.load rs).responses = s.responses := rfl

@[simp] theorem State.driveEncoder_encCode (s : State) (d : Word) : (s.driveEncoder d).encCode = secdedEncode d := rfl
@[simp] theorem State.driveEncoder_decOutcome (s : State) (d : Word) : (s.driveEncoder d).decOutcome = s.decOutcome := rfl
@[simp] theorem State.driveDecoder_encCode (s : State) (d : Word) (c : Code) : (s.driveDecoder d c).encCode = s.encCode := rfl
@[simp] theorem State.driveDecoder_decOutcome (s : State) (d : Word) (c : Code) :
    (s.driveDecoder d c).decOutcome = verifyAndCorrect d c := rfl
@[simp] theorem State.deliver_encCode (s : State) (x : Response) : (s.deliver x).encCode = s.encCode := rfl
@[simp] theorem State.deliver_decOutcome (s : State) (x : Response) : (s.deliver x).decOutcome = s.decOutcome := rfl

end Sys2Proof.Machine
end

