-- ==== Sys2Proof/Laws/Ops.lean ====
section
/-! SUPPORT. What each shared operation and each step can do, said once. -/

namespace Sys2Proof.Machine

theorem State.fetch_nil {s : State} (h : s.requests = []) : s.fetch = none := by
  simp [State.fetch, h]

theorem State.fetch_cons {s : State} {r : Request} {rest : List Request} (h : s.requests = r :: rest) :
    s.fetch = some (r, { s with requests := rest }) := by
  simp [State.fetch, h]

@[simp] theorem State.fetch_present (s : State) (r : Request) : (s.present r).fetch = some (r, s) := rfl

/-- The whole effect of ENCODE's meaning. -/
theorem execEncode_eq (data : Word) (unused : Code) (s : State) :
    execEncode data unused s =
      .next { s with encData := data, responses := s.responses ++ [.code (secdedEncode data)] } := rfl

/-- The whole effect of VERIFY's meaning. -/
theorem execVerify_eq (data : Word) (code : Code) (s : State) :
    execVerify data code s =
      .next { s with
        decData := data, decCode := code
        responses := s.responses ++ [verdictOf data (verifyAndCorrect data code)] } := rfl

/-- Every instruction answers a next state, and the response it adds is the one its operands determine. -/
theorem exec_next (i : Instr) (s : State) :
    ∃ t, exec i s = .next t ∧ t.requests = s.requests ∧ t.responses = s.responses ++ [resultOf i] := by
  cases i <;> exact ⟨_, rfl, rfl, rfl⟩

/-- What a step can do: nothing where no request waits, else the one transaction of the next request. -/
theorem step_cases {s t : State} (h : step s = .next t) :
    (s.requests = [] ∧ t = s) ∨
      ∃ r rest, s.requests = r :: rest ∧ exec (decodeRequest r) { s with requests := rest } = .next t ∧
        t.requests = rest ∧ t.responses = s.responses ++ [respond r] := by
  cases hr : s.requests with
  | nil =>
    simp only [step, State.fetch_nil hr, State.idle, Host.Outcome.next.injEq] at h
    exact .inl ⟨rfl, h.symm⟩
  | cons r rest =>
    simp only [step, State.fetch_cons hr] at h
    obtain ⟨u, hu, hq, hx⟩ := exec_next (decodeRequest r) { s with requests := rest }
    obtain rfl : u = t := by simpa [hu] using h
    exact .inr ⟨r, rest, rfl, hu, hq, hx⟩

theorem decStatus_eq (s : State) : s.decStatus = (verifyAndCorrect s.decData s.decCode).status := rfl

theorem decDataOut_eq (s : State) : s.decDataOut = (verifyAndCorrect s.decData s.decCode).dataOut s.decData := rfl

end Sys2Proof.Machine
end

