-- ==== Sys2Proof/Laws/PerInstr.lean ====
section
/-! SUPPORT. Statements for all instructions, one lemma per constructor. -/

namespace Sys2Proof.Laws.OpBit

/-- An instruction's request carries the `op` value that spec/opcode_table.json fixes for its row (match under mask 0x1). -/
def Statement : Instr → Prop
  | .encode data unused => opField (Sys2Proof.encode (.encode data unused)) = false
  | .verify data code => opField (Sys2Proof.encode (.verify data code)) = true

theorem encode (data : Word) (unused : Code) : Statement (.encode data unused) := by
  simp [Statement, Sys2Proof.encode, opField_append]

theorem verify (data : Word) (code : Code) : Statement (.verify data code) := by
  simp [Statement, Sys2Proof.encode, opField_append]

end Sys2Proof.Laws.OpBit
end

