-- ==== Sys2Proof/Laws/Secded.lean ====
section
/-! SUPPORT. What the arithmetic's functions and the status encoding can give, one lemma per branch. -/

namespace Sys2Proof.Machine

variable {data : Word} {code : Code} {m : MaskTable}

/-- One round of the fold is linear over XOR. -/
theorem foldDown_xor (n : Nat) (a b : Word) : foldDown n (a ^^^ b) = foldDown n a ^^^ foldDown n b := by
  simp only [foldDown, BitVec.ushiftRight_xor_distrib]
  ac_rfl

/-- An index that LOCATE gives has the syndrome as its column. -/
theorem column_of_locate {s : Syndrome} {i : Fin 64} (h : locate s m = some i) : column i m = s := by
  have := List.find?_some h
  simpa using this

/-- Where LOCATE gives no index, no column is the syndrome. -/
theorem column_ne_of_locate_none {s : Syndrome} (h : locate s m = none) (i : Fin 64) : column i m ≠ s := by
  have := List.find?_eq_none.mp h i (List.mem_finRange i)
  simpa using this

theorem verifyAndCorrect_of_match (hs : syndrome data code m = 0#7) (hq : overallParity data code m = false) :
    verifyAndCorrect data code m = .clean := by
  simp [verifyAndCorrect, hs, hq]

theorem verifyAndCorrect_of_codeBitZero (hs : syndrome data code m = 0#7) (hq : overallParity data code m = true) :
    verifyAndCorrect data code m = .corrected data := by
  simp [verifyAndCorrect, hs, hq]

theorem verifyAndCorrect_of_even (hs : syndrome data code m ≠ 0#7) (hq : overallParity data code m = false) :
    verifyAndCorrect data code m = .uncorrectable := by
  simp [verifyAndCorrect, hs, hq]

theorem verifyAndCorrect_of_odd (hs : syndrome data code m ≠ 0#7) (hq : overallParity data code m = true) :
    verifyAndCorrect data code m = correctAt data (syndrome data code m) m := by
  simp [verifyAndCorrect, hs, hq]

/-- What the last branch can give. -/
theorem correctAt_cases (data : Word) (s : Syndrome) (m : MaskTable) :
    (locate s m = none ∧ correctAt data s m = .uncorrectable) ∨
      ∃ i, locate s m = some i ∧ column i m = s ∧ correctAt data s m = .corrected (data ^^^ oneBit i) := by
  cases h : locate s m with
  | none => exact .inl ⟨rfl, by simp [correctAt, h]⟩
  | some i => exact .inr ⟨i, rfl, column_of_locate h, by simp [correctAt, h]⟩

@[simp] theorem rspStatus_packRsp (w : Word) (st : Status) : rspStatus (packRsp w st) = st :=
  BitVec.extractLsb'_append_eq_right

@[simp] theorem rspDataOut_packRsp (w : Word) (st : Status) : rspDataOut (packRsp w st) = w :=
  BitVec.extractLsb'_append_eq_left

@[simp] theorem VerifyOutcome.status_clean : VerifyOutcome.clean.status = 0b00#2 := rfl
@[simp] theorem VerifyOutcome.status_corrected (w : Word) : (VerifyOutcome.corrected w).status = 0b01#2 := rfl
@[simp] theorem VerifyOutcome.status_uncorrectable : VerifyOutcome.uncorrectable.status = 0b10#2 := rfl
@[simp] theorem VerifyOutcome.dataOut_clean (d : Word) : VerifyOutcome.clean.dataOut d = d := rfl
@[simp] theorem VerifyOutcome.dataOut_corrected (d w : Word) : (VerifyOutcome.corrected w).dataOut d = w := rfl
@[simp] theorem VerifyOutcome.dataOut_uncorrectable (d : Word) : VerifyOutcome.uncorrectable.dataOut d = d := rfl

end Sys2Proof.Machine
end

