-- ==== Sys2Proof/Tests/Slice0.lean ====
section
/-! SUPPORT. The model's own tests. Expected values come from spec/95_test_vectors.md (the vector is named at each test) or from the rule
named. The last part shows, for the statements that have hypotheses, inputs that meet them. -/

-- One theorem after the other: the tests' kernel evaluations would each hold a thread of their own.
set_option Elab.async false

namespace Sys2Proof.Tests.Slice0

open Sys2Proof Sys2Proof.Machine

/-- The base word of vectors V2 and V5; its code is 0x8D. -/
abbrev base : Word := 0xDEADBEEFCAFEF00D#64

/-- The responses that `n` steps from power-up add when `rs` are the requests of the script. -/
def responsesOf (rs : List Request) (n : Nat) : Option (List Response) :=
  match Host.Core.run Sys2Proof.core n (State.reset.load rs) with
  | .next t => some t.responses
  | .fault _ => none
  | .refused _ => none

/-! ### Decoding: words written out from R40 -/

/-- V11, bit by bit: code 00000000, data 0...01, op 0. -/
theorem test_decode_encode_one : decodeRequest (0b00000000#8 ++ 0x0000000000000001#64 ++ 0b0#1) = .encode 1 0 := by decide
/-- V11: `0x1FFBD5B7DDF95FDE01A`. -/
theorem test_decode_encode_base : decodeRequest 0x1FFBD5B7DDF95FDE01A#73 = .encode base 0xFF := by decide
/-- V11: `0x11BBD5B7DDF95FDE01B`. -/
theorem test_decode_verify_base : decodeRequest 0x11BBD5B7DDF95FDE01B#73 = .verify base 0x8D := by decide
/-- V11: `0x1000000000000000001`, the top bit of the word and the `op` bit. -/
theorem test_decode_verify_top : decodeNumber 0x1000000000000000001 = .ok (.verify 0 0x80) := by decide
theorem test_encode_request : encode (.verify base 0x8D) = 0x11BBD5B7DDF95FDE01B#73 := by decide
/-- R48: bit 73 is no bit of a request. -/
theorem test_decode_too_wide : decodeNumber (2 ^ 73) = .error .moreThan73Bits := by decide
theorem test_tableWord_encode : decodeTableWord 8 0x0 = some (.encode 0 0) := by decide
theorem test_tableWord_verify : decodeTableWord 8 0x1 = some (.verify 0 0) := by decide
theorem test_tableWord_cut : decodeTableWord 1 0x3 = some (.verify 0 0) := by decide
theorem test_tableWord_too_wide : decodeTableWord 80 (2 ^ 73) = none := by decide

/-! ### Well-formedness: each check refuses an ill-formed term -/

theorem test_wellFormed_data_longest : (ScriptLine.encode (List.replicate 16 15)).wellFormed = true := by decide
theorem test_illFormed_data_empty : (ScriptLine.encode []).wellFormed = false := by decide
theorem test_illFormed_data_long : (ScriptLine.encode (List.replicate 17 0)).wellFormed = false := by decide
theorem test_illFormed_verify_data : (ScriptLine.verify [] [1]).wellFormed = false := by decide
theorem test_illFormed_code_empty : (ScriptLine.verify [1] []).wellFormed = false := by decide
theorem test_illFormed_code_long : (ScriptLine.verify [1] [0, 0, 0]).wellFormed = false := by decide
theorem test_maskTable_ok : maskTableOk maskTable = true := by decide +kernel
/-- A zero column (bit 62 is in no mask) is refused. -/
theorem test_maskTable_zero_column : maskTableOk (maskTable.set 0 0) = false := by decide +kernel
/-- Two equal columns are refused: bits 62 and 61 are both in `MASK[0]` alone. -/
theorem test_maskTable_equal_columns : maskTableOk ((maskTable.set 0 0x7555555555555555#64).set 1 0x1333333333333333#64) = false := by
  decide +kernel

/-! ### The encoder -/

/-- V1. -/
theorem test_parity64 : [0#64, 0xFFFFFFFFFFFFFFFF#64, 1#64, 0x8000000000000001#64, 7#64, 0x0123456789ABCDEF#64].map parity64 =
    [false, false, true, false, true, false] := by decide
/-- V2. -/
theorem test_hamming7 : [base, 0xFFFFFFFFFFFFFFFF#64, 0xC000000000000000#64, 1#64].map (hamming7 ·) =
    [0x46#7, 0x40#7, 0x41#7, 0x3F#7] := by decide
/-- V2; the first three are the source's example W1, W2 and the base word. -/
theorem test_secdedEncode : [0#64, 0x8000000000000000#64, base, 0x0000000080000000#64, 0xAAAAAAAAAAAAAAAA#64, 3#64].map
    (secdedEncode ·) = [0x00#8, 0x80#8, 0x8D#8, 0x40#8, 0x81#8, 0x03#8] := by decide
/-- The table of R58. -/
theorem test_columns : [0, 31, 32, 62, 63].map (column ·) = [0x3F#7, 0x20#7, 0x1F#7, 0x01#7, 0x40#7] := by decide
/-- P1, P7: three ENCODE requests in one script. -/
theorem test_encode_script : responsesOf [0x001BD5B7DDF95FDE01A#73, 0x00002468ACF13579BDE#73, 0x001BF1DF71086AA7BC4#73] 3 =
    some [.code 0x8D, .code 0x00, .code 0x8D] := by decide +kernel
/-- The outputs of the other datapath stay the function of their own inputs (R38). -/
theorem test_encode_leaves_decoder : ∃ t, exec (.encode base 0) (State.reset.drivePorts 0 1 0x7F) = .next t ∧
    t.encData = base ∧ t.decData = 1 ∧ t.decCode = 0x7F := ⟨_, rfl, rfl, rfl, rfl⟩

/-! ### The decoder -/

/-- V4. -/
theorem test_locate : [0x00#7, 0x01#7, 0x20#7, 0x3F#7, 0x40#7, 0x41#7, 0x7F#7].map (locate ·) =
    [none, some 62, some 31, some 0, some 63, none, none] := by decide +kernel
/-- V5: clean; payload bits 0 and 63; code bits 0 and 7. -/
theorem test_verify_single : [(base, 0x8D#8), (0xDEADBEEFCAFEF00C#64, 0x8D#8), (0x5EADBEEFCAFEF00D#64, 0x8D#8), (base, 0x8C#8),
      (base, 0x0D#8)].map (fun x => verifyAndCorrect x.1 x.2) =
    [.clean, .corrected base, .corrected base, .corrected base, .corrected 0x5EADBEEFCAFEF00D#64] := by decide +kernel
/-- V5: payload bits 0 and 1; payload bit 40 and code bit 4; payload bit 62 and code bit 1; syndromes 0x41 and 0x7F with odd parity; a
triple. -/
theorem test_verify_multiple : [(0xDEADBEEFCAFEF00E#64, 0x8D#8), (0xDEADBFEFCAFEF00D#64, 0x9D#8), (0x9EADBEEFCAFEF00D#64, 0x8F#8),
      (base, 0x0E#8), (base, 0x73#8), (0xDEADBEEFCAFEF00A#64, 0x8D#8)].map (fun x => verifyAndCorrect x.1 x.2) =
    [.uncorrectable, .uncorrectable, .clean, .uncorrectable, .uncorrectable, .corrected 0xDEADBEEFCAFEF002#64] := by
  decide +kernel
/-- P2, P6 and P3: Corrected, Clean, an undetected double error, and Uncorrectable, as response words. -/
theorem test_verify_script : responsesOf [0x11BBD5A7DDF95FDE01B#73, 0x11BBD5B7DDF95FDE01B#73, 0x19BBD5B7DDE95FDE01B#73,
      0x0FE0000000000000005#73] 4 =
    some [.verdict 0x37AB6FBBF2BFBC035#66, .verdict 0x37AB6FBBF2BFBC034#66, .verdict 0x37AB6FBBD2BFBC034#66,
      .verdict 0x0000000000000000A#66] := by decide +kernel
/-- P5: a flip of code bit 7 is miscorrected, and the pair written back is a codeword. -/
theorem test_verify_code_bit_seven : responsesOf [0x1000000000000000001#73, 0x1010000000000000001#73] 2 =
    some [.verdict 0x20000000000000001#66, .verdict 0x20000000000000000#66] := by decide +kernel
/-- R47: the fourth status is a fault of the interface. -/
theorem test_readOutcome : readOutcome 0b11#2 base = .error .interfaceStatus ∧ readOutcome 0b01#2 base = .ok (.corrected base) ∧
    readOutcome 0b10#2 base = .ok .uncorrectable := by decide

/-! ### Steps -/

/-- The table's two rows run as the first request after power-up. -/
theorem test_step_encode_row : ∃ t, step (State.reset.withFetchWord 8 0) = .next t ∧ t.responses = [.code 0] := ⟨_, rfl, by decide⟩
theorem test_step_verify_row : ∃ t, step (State.reset.withFetchWord 8 1) = .next t ∧ t.responses = [.verdict 0] :=
  ⟨_, rfl, by decide⟩
theorem test_step_idle : step State.reset = .next State.reset := rfl

/-! ### The textual form (R49) -/

/-- P1's second line. -/
theorem test_text_verify : parseLine "VERIFY 0xDEADBEEFCAFEF00D, 0x8D       ; req".toList =
    .ok (some (.verify [13, 14, 10, 13, 11, 14, 14, 15, 12, 10, 15, 14, 15, 0, 0, 13] [8, 13])) := by decide +kernel
theorem test_text_value : instrOfLine (.verify [13, 14, 10, 13, 11, 14, 14, 15, 12, 10, 15, 14, 15, 0, 0, 13] [8, 13]) =
    .verify base 0x8D := by decide
theorem test_text_comment_only : parseLine "; caller stores".toList = .ok none := by decide
theorem test_text_label : parseLine "a: ENCODE 0x1".toList = .error .noSuchForm := by decide
theorem test_text_seventeen_digits : parseLine "ENCODE 0x00000000000000001".toList = .error .badLiteral := by decide +kernel
theorem test_assemble : assemble ["ENCODE 0x1".toList, "; later".toList, "VERIFY 0x2, 0x7F".toList] =
    .ok [0x0000000000000000002#73, 0x0FE0000000000000005#73] := by decide +kernel

/-! ### Inputs that meet the hypotheses of the statements, at the ends of their ranges -/

theorem witness_EveryRequestSelectsOneOperation :
    (0#73).getLsbD 0 = false ∧ (0x1FFFFFFFFFFFFFFFFFF#73).getLsbD 0 = true := by decide
theorem witness_DecodeAndEncodeAgree : 2 ^ 73 ≤ 0x2000000000000000000 ∧
    decodeNumber 0x1FFFFFFFFFFFFFFFFFF = .ok (.verify 0xFFFFFFFFFFFFFFFF#64 0xFF#8) := by decide
theorem witness_StepRunsTheDecodedRequest :
    (State.reset.present 1#73).requests = 1#73 :: [] ∧ State.reset.requests = [] := by decide
theorem witness_StepRunsThePlacedWord : decodeTableWord 73 0x1FFFFFFFFFFFFFFFFFF =
    some (.verify 0xFFFFFFFFFFFFFFFF#64 0xFF#8) := by decide
theorem witness_EncodeReturnsTheSecdedCode :
    (base, 0x8D#8) ∈ ([(0#64, 0x00#8), (base, 0x8D#8)] : List (Word × Code)) ∧ secdedEncode base = 0x8D := by decide
theorem witness_EncodeIgnoresTheCodeField : (0x0000000000000000002#73).getLsbD 0 = false ∧
    (0x0000000000000000002#73).setWidth 65 = (0x1FE0000000000000002#73).setWidth 65 := by decide
theorem witness_ColumnsOfThePayloadBits : (0 : Fin 64).val < 63 ∧ (62 : Fin 64).val < 63 ∧ column 62 = column 62 := by decide
theorem witness_EveryCodeValueIsTheCodeOfManyWords :
    (List.finRange 8).foldl (fun x k => if (fun _ : Fin 8 => false) k
      then x ^^^ (#v[0x02#8, 0x04#8, 0x08#8, 0x10#8, 0x20#8, 0x40#8, 0x80#8, 0x7F#8] : Vector Code 8)[k] else x) 0#8 = 0#8 := by
  decide
theorem witness_RawBitSixIsNoOtherParity : (0#64 ≠ 0x8000000000000000#64) ∧ (0xFFFFFFFFFFFFFFFF#64 ≠ 0x8000000000000000#64) := by
  decide
theorem witness_MaskTableCoversEveryBitButTheTop : (62 : Fin 64) ∈ ([31, 47, 55, 59, 61, 62] : List (Fin 64)) ∧
    ∀ k : Fin 6, maskTable[k].getLsbD (62 : Fin 64).val = maskTable[k].getLsbD (62 : Fin 64).val := by decide
theorem witness_SyndromeAndParityDecideCodeEquality :
    (syndrome base 0x8D = 0#7 ∧ overallParity base 0x8D = false) ∧ (syndrome base 0x8C = 0#7 ∧ overallParity base 0x8C = true) ∧
    syndrome base 0x8F ≠ 0#7 := by decide +kernel
theorem witness_LocateInvertsTheColumns : maskTableOk maskTable = true ∧ locate 0x40#7 = some 63 ∧ locate 0x41#7 = none := by
  decide +kernel
theorem witness_LocateInClosedForm : 0x01#7 ≤ 0x01#7 ∧ 0x01#7 ≤ 0x3F#7 ∧ 0x41#7 ≤ 0x41#7 ∧ 0x41#7 ≤ 0x7F#7 := by decide
/-- One input for each clause: V5's rows for nothing, code bit 0, payload bits 0 and 1, payload bits 0 and 63 alone, and the two ends
of the syndromes that no column explains. -/
theorem witness_VerifyReturnsTheOutcome :
    (syndrome base 0x8D = 0#7 ∧ overallParity base 0x8D = false) ∧
    (syndrome base 0x8C = 0#7 ∧ overallParity base 0x8C = true) ∧
    (syndrome 0xDEADBEEFCAFEF00E#64 0x8D ≠ 0#7 ∧ overallParity 0xDEADBEEFCAFEF00E#64 0x8D = false) ∧
    (column 0 = syndrome 0xDEADBEEFCAFEF00C#64 0x8D ∧ overallParity 0xDEADBEEFCAFEF00C#64 0x8D = true) ∧
    (column 63 = syndrome 0x5EADBEEFCAFEF00D#64 0x8D ∧ overallParity 0x5EADBEEFCAFEF00D#64 0x8D = true) ∧
    (syndrome base 0x0E = 0x41#7 ∧ (∀ i : Fin 64, column i ≠ syndrome base 0x0E) ∧ overallParity base 0x0E = true) ∧
    (syndrome base 0x73 = 0x7F#7 ∧ (∀ i : Fin 64, column i ≠ syndrome base 0x73) ∧ overallParity base 0x73 = true) ∧
    ((1 : Fin 8) ≠ 0 ∧ twinOfCodeBit 1 = some 62) ∧ ((7 : Fin 8) ≠ 0 ∧ twinOfCodeBit 7 = some 63) := by
  decide +kernel
theorem witness_CodeBitZeroMismatchKeepsTheWord : syndrome 0#64 0x01 = 0#7 ∧ overallParity 0#64 0x01 = true := by decide
theorem witness_SingleCodeErrorsAreMiscorrected : (0 : Fin 8) = 0 ∧ (1 : Fin 8) ≠ 0 ∧ (7 : Fin 8) ≠ 0 := by decide
theorem witness_DoubleErrorsAreDetectedButSeven :
    ((62 : Fin 72) < 65 ∧ Undetectable 62 65) ∧ ((63 : Fin 72) < 71 ∧ Undetectable 63 71) ∧
    (0 : Fin 64) ≠ 63 ∧ ((0 : Fin 72) < 1 ∧ ¬ Undetectable 0 1) ∧ ((70 : Fin 72) < 71 ∧ ¬ Undetectable 70 71) :=
  ⟨⟨by decide, 62, 1, rfl, rfl, rfl⟩, ⟨by decide, 63, 7, rfl, rfl, rfl⟩, by decide,
    ⟨by decide, fun ⟨_, b, _, _, h⟩ => by
      have h1 : (1 : Fin 72).val = 1 := rfl
      omega⟩,
    ⟨by decide, fun ⟨i, _, _, h, _⟩ => by
      have h1 : (70 : Fin 72).val = 70 := rfl
      have := i.isLt
      omega⟩⟩
theorem witness_UncorrectableIsAResult : verifyAndCorrect 0x8000000000000001#64 0x00 = .uncorrectable := by decide +kernel
/-- V9, both cases. -/
theorem witness_WhatToWriteBackAfterACorrection :
    (verifyAndCorrect 0#64 0x80 = .corrected 0x8000000000000000#64 ∧ 0x8000000000000000#64 ≠ 0#64) ∧
    verifyAndCorrect 0#64 0x01 = .corrected 0#64 := by decide +kernel
theorem witness_AnyTableOfDistinctColumnsCorrects : maskTableOk maskTable = true ∧ (0 : Fin 64) ≠ 63 := by decide +kernel
theorem witness_DatapathsAreIndependent :
    (∃ t, exec (.encode base 0) State.reset = .next t) ∧ ∃ t, exec (.verify base 0x8D) State.reset = .next t :=
  ⟨⟨_, rfl⟩, ⟨_, rfl⟩⟩
theorem witness_ScriptGivesEachRequestItsOwnResult : ([0#73, 1#73] : List Request).Perm [1#73, 0#73] ∧
    (∃ t, Host.Core.run Sys2Proof.core 2 { State.reset with requests := [0#73, 1#73] ++ State.reset.requests } = .next t) ∧
    ∃ t, Host.Core.run Sys2Proof.core 2 { State.reset with requests := [1#73, 0#73] ++ State.reset.requests } = .next t :=
  ⟨by decide, ⟨_, rfl⟩, ⟨_, rfl⟩⟩
theorem witness_StepKeepsTheInvariant : ∃ s t : State, s.responses ≠ [] ∧ s.Inv ∧ step s = .next t :=
  ⟨{ State.reset.present 1#73 with responses := [.code 0] }, _, by decide, by simp [State.Inv, Response.legal], rfl⟩
theorem witness_EveryRunIsSafe : ∃ s : State, s.responses ≠ [] ∧ s.Inv :=
  ⟨{ State.reset with responses := [.code 0] }, by decide, by simp [State.Inv, Response.legal]⟩
theorem witness_ScriptTextReadsBack :
    (ScriptLine.verify (List.replicate 16 15) [15, 15]).wellFormed = true ∧ [';', 'x'].head? = some ';' ∧
    (ScriptLine.encode (List.replicate 17 0)).wellFormed = false ∧ (ScriptLine.encode [0]).wellFormed = true ∧
    (ScriptLine.encode (List.replicate 16 15)).wellFormed = true ∧
    ∀ x ∈ [(ScriptLine.encode [1], [';']), (ScriptLine.verify [2] [7, 15], [])],
      x.1.wellFormed = true ∧ (x.2 = [] ∨ x.2.head? = some ';') := by decide

end Sys2Proof.Tests.Slice0
end

/-! PROOFS. The state family (10_state.md): the Coverage Mask Table, the state after power-up, and the response of a presented request. -/

namespace Sys2Proof.Machine

/-! ### A presented request -/

/-- The step of a presented request is the meaning of its instruction, run from the state it was presented to. -/
theorem step_present (s : State) (r : Request) : step (s.present r) = exec (decodeRequest r) s := by
  simp [step]

/-- A presented request runs in one step, which adds `respond r` and leaves the other waiting requests as they are. -/
theorem step_present_next (s : State) (r : Request) :
    ∃ t, step (s.present r) = .next t ∧ t.responses = s.responses ++ [respond r] ∧ t.requests = s.requests := by
  obtain ⟨t, hstep, hrequests, hresponses⟩ := exec_next (decodeRequest r) s
  exact ⟨t, (step_present s r).trans hstep, hresponses, hrequests⟩

/-- Settles O41: the response is `respond r`, which is chosen before the state is. -/
theorem resultsDependOnTheRequestAlone : Obligations.ResultsDependOnTheRequestAlone := by
  unfold Obligations.ResultsDependOnTheRequestAlone
  intro r
  exact ⟨respond r, fun s => step_present_next s r⟩

/-! ### The Coverage Mask Table -/

/-- The last column of R15's table: bit `i` of `MASK[k]` is `NOT i[k]`. -/
theorem getLsbD_maskTable : ∀ (k : Fin 6) (i : Fin 64), maskTable[k].getLsbD i.val = !i.val.testBit k.val := by
  decide

/-- Settles O17: the literals by definition, the bit rule by `getLsbD_maskTable`. -/
theorem maskTableHoldsTheLiterals : Obligations.MaskTableHoldsTheLiterals :=
  ⟨rfl, getLsbD_maskTable⟩

/-- The membership vector of bit `i`, over the masks 5 down to 0, is `NOT i[5:0]` (R16). -/
theorem getLsbD_maskTable_eq_not (i : Fin 64) (k : Fin 6) :
    maskTable[k].getLsbD i.val = (~~~ (BitVec.ofNat 6 i.val)).getLsbD k.val := by
  rw [getLsbD_maskTable]
  simp

/-- Two bits in the same masks are the same bit: the six masks give all six bits of an index (R16). -/
theorem eq_of_maskTable_membership_eq {i j : Fin 64}
    (h : ∀ k : Fin 6, maskTable[k].getLsbD i.val = maskTable[k].getLsbD j.val) : i = j := by
  apply Fin.ext
  apply Nat.eq_of_testBit_eq
  intro k
  rcases Nat.lt_or_ge k 6 with hk | hk
  · have hmember := h ⟨k, hk⟩
    rwa [getLsbD_maskTable, getLsbD_maskTable, Bool.not_inj_iff] at hmember
  · have above : ∀ n : Fin 64, n.val.testBit k = false := fun n =>
      Nat.testBit_lt_two_pow (Nat.lt_of_lt_of_le n.isLt (Nat.pow_le_pow_right Nat.two_pos hk))
    rw [above i, above j]

/-- Bit 63 is in no mask (R16). -/
theorem maskTable_excludes_top (k : Fin 6) : maskTable[k].getLsbD 63 = false := by
  have top : ∀ k : Fin 6, (63 : Nat).testBit k.val = true := by decide
  simpa [top k] using getLsbD_maskTable k 63

/-- Bit 0 is in every mask (R16). -/
theorem maskTable_includes_zero (k : Fin 6) : maskTable[k].getLsbD 0 = true := by
  simpa using getLsbD_maskTable k 0

/-- Every bit but the top is in a mask: a bit in none would have the membership of bit 63 (R16). -/
theorem exists_mask_of_lt_top {i : Fin 64} (hi : i.val < 63) : ∃ k : Fin 6, maskTable[k].getLsbD i.val = true := by
  by_contra! hnone
  have htop : i = 63 := eq_of_maskTable_membership_eq fun k =>
    (Bool.eq_false_of_not_eq_true (hnone k)).trans (maskTable_excludes_top k).symm
  exact absurd hi (by simp [htop])

/-- `popcount` of the 6-bit index, as a count over the masks' numbers. -/
theorem popcount_index (i : Fin 64) :
    popcount (BitVec.ofNat 6 i.val) = (List.finRange 6).countP fun k => i.val.testBit k.val := by
  rw [popcount, ← List.map_coe_finRange_eq_range, List.countP_map]
  apply List.countP_congr
  intro k _
  simp

/-- Bit `i` is in `6 - popcount(i)` masks: the masks with `i[k] = 0` and those with `i[k] = 1` are six together (R16). -/
theorem countP_maskTable (i : Fin 64) :
    (List.finRange 6).countP (fun k => maskTable[k].getLsbD i.val) = 6 - popcount (BitVec.ofNat 6 i.val) := by
  have hsplit : 6 = popcount (BitVec.ofNat 6 i.val) + (List.finRange 6).countP fun k => !i.val.testBit k.val := by
    rw [popcount_index]
    simpa using
      List.length_eq_countP_add_countP (fun k : Fin 6 => i.val.testBit k.val) (l := List.finRange 6)
  simp only [getLsbD_maskTable]
  omega

/-- Settles O18, a fact of R16 at a time. -/
theorem maskTableCoversEveryBitButTheTop : Obligations.MaskTableCoversEveryBitButTheTop := by
  unfold Obligations.MaskTableCoversEveryBitButTheTop
  have fiveOnes : ∀ i ∈ ([31, 47, 55, 59, 61, 62] : List (Fin 64)), popcount (BitVec.ofNat 6 i.val) = 5 := by decide
  refine ⟨maskTable_excludes_top, fun i => exists_mask_of_lt_top, rfl, countP_maskTable, maskTable_includes_zero,
    fun i hi => ?_, getLsbD_maskTable_eq_not, fun i j => eq_of_maskTable_membership_eq⟩
  rw [countP_maskTable, fiveOnes i hi]

/-! ### The state after power-up -/

/-- Settles O43: the fields are those `State.reset` is written with, and the outputs follow the inputs as in every state. -/
theorem resetHasNothingWaiting : Obligations.ResetHasNothingWaiting :=
  ⟨rfl, rfl, rfl, rfl, rfl, rfl, decStatus_eq State.reset, decDataOut_eq State.reset⟩

end Sys2Proof.Machine

/-! PROOFS. The memory family (20_memory.md): a script of requests, in any order. -/

namespace Sys2Proof.Machine

/-- A run's first step, where that step goes on. -/
theorem run_succ_of_step {M : Host.Core} {s t : M.State} (h : M.step s = .next t) (n : Nat) :
    M.run (n + 1) s = M.run n t := by
  rw [Host.Core.run, h]

/-- A step with a request waiting goes on, removes that request and adds its `respond`. -/
theorem step_next_of_requests_cons {s : State} {r : Request} {rest : List Request} (h : s.requests = r :: rest) :
    ∃ t, step s = .next t ∧ t.requests = rest ∧ t.responses = s.responses ++ [respond r] := by
  have hs : s = State.present { s with requests := rest } r := by
    rw [State.present, ← h]
  obtain ⟨t, hstep, hresponses, hrequests⟩ := step_present_next { s with requests := rest } r
  exact ⟨t, hs ▸ hstep, hrequests, hresponses⟩

/-- A run over the first `rs` of the waiting requests does those, in their order, and leaves the rest waiting. -/
theorem run_requests_append (rs : List Request) {rest : List Request} {s : State} (h : s.requests = rs ++ rest) :
    ∃ t, Host.Core.run Sys2Proof.core rs.length s = .next t ∧
      t.requests = rest ∧ t.responses = s.responses ++ rs.map respond := by
  induction rs generalizing s with
  | nil => exact ⟨s, rfl, h, by simp⟩
  | cons r rs ih =>
    obtain ⟨u, hstep, hrequests, hresponses⟩ := step_next_of_requests_cons h
    obtain ⟨t, hrun, hrest, hall⟩ := ih hrequests
    refine ⟨t, (run_succ_of_step (M := Sys2Proof.core) hstep rs.length).trans hrun, hrest, ?_⟩
    rw [hall, hresponses, List.append_assoc, List.map_cons, List.singleton_append]

/-- The responses that a run over `rs` adds pair each request of `rs` with its own `respond`, whatever the state. -/
theorem zip_responses_of_run {rs rest : List Request} {s t : State} (h : s.requests = rs ++ rest)
    (hrun : Host.Core.run Sys2Proof.core rs.length s = .next t) :
    rs.zip (t.responses.drop s.responses.length) = rs.map fun r => (r, respond r) := by
  obtain ⟨u, hu, -, hresponses⟩ := run_requests_append rs h
  obtain rfl : u = t := Host.Outcome.next.inj (hu.symm.trans hrun)
  rw [hresponses, List.drop_left, List.map_prod_left_eq_zip]

/-- Settles O42: `run_requests_append` for the two ways of giving a script; two orders of one script pair its requests by one
function, `respond`, so the pairs are permuted as the requests are. -/
theorem scriptGivesEachRequestItsOwnResult : Obligations.ScriptGivesEachRequestItsOwnResult := by
  unfold Obligations.ScriptGivesEachRequestItsOwnResult
  refine ⟨fun rs s => run_requests_append rs rfl, fun rs rs' s s' t t' hperm hrun hrun' => ?_, fun rs s => ?_⟩
  · have hpairs := zip_responses_of_run rfl hrun
    have hpairs' := zip_responses_of_run rfl hrun'
    rw [hpairs, hpairs']
    exact hperm.map _
  · have hload : (s.load rs).requests = (s.requests ++ rs) ++ [] := by simp
    simpa using run_requests_append (s.requests ++ rs) hload

end Sys2Proof.Machine

/-! PROOFS. The encoding family (30_encoding.md): request words, steps and their frames, the status encoding, the invariant, and the
textual form of scripts. -/

namespace Sys2Proof.Machine

/-! ### Requests and instructions -/

/-- Decoding undoes encoding: each field of `{code, data, op}` is read back (R40). -/
theorem decodeRequest_encode (i : Instr) : decodeRequest (encode i) = i := by
  cases i with
  | encode data unused => simp [encode, decodeRequest, opField_append, dataField_append, codeField_append]
  | verify data code => simp [encode, decodeRequest, opField_append, dataField_append, codeField_append]

/-- Encoding undoes decoding: a request is its three fields put together (R40). -/
theorem encode_decodeRequest (r : Request) : encode (decodeRequest r) = r := by
  have hfields := fields_append r
  cases hop : opField r with
  | false => simpa [decodeRequest, encode, hop] using hfields
  | true => simpa [decodeRequest, encode, hop] using hfields

theorem decodeNumber_of_lt {w : Nat} (h : w < 2 ^ 73) : decodeNumber w = .ok (decodeRequest (BitVec.ofNat 73 w)) := by
  rw [decodeNumber, requestOfNumber, if_pos h]

theorem decodeNumber_of_ge {w : Nat} (h : 2 ^ 73 ≤ w) : decodeNumber w = .error .moreThan73Bits := by
  rw [decodeNumber, requestOfNumber, if_neg (Nat.not_lt.mpr h)]

/-- A number decodes to `i` exactly when it is the request word of `i`, read as a number. -/
theorem decodeNumber_eq_ok_iff (w : Nat) (i : Instr) : decodeNumber w = .ok i ↔ w = (encode i).toNat := by
  constructor
  · intro h
    rcases Nat.lt_or_ge w (2 ^ 73) with hw | hw
    · rw [decodeNumber_of_lt hw, Except.ok.injEq] at h
      rw [← h, encode_decodeRequest, BitVec.toNat_ofNat, Nat.mod_eq_of_lt hw]
    · simp [decodeNumber_of_ge hw] at h
  · rintro rfl
    rw [decodeNumber_of_lt (encode i).isLt, BitVec.ofNat_toNat, BitVec.setWidth_eq, decodeRequest_encode]

/-- Settles O3: the two round trips on requests, from which the round trip on numbers follows. -/
theorem decodeAndEncodeAgree : Obligations.DecodeAndEncodeAgree :=
  ⟨decodeRequest_encode, encode_decodeRequest, decodeNumber_eq_ok_iff, fun _ => decodeNumber_of_ge⟩

/-- Settles O1: each number is the request word of the instruction beside it. -/
theorem decodesTheWordsOfTheRequestTable : Obligations.DecodesTheWordsOfTheRequestTable := by
  simp only [Obligations.DecodesTheWordsOfTheRequestTable, decodeNumber_eq_ok_iff]
  decide

theorem decodeRequest_of_encode {r : Request} (h : r.getLsbD 0 = false) :
    decodeRequest r = .encode (dataField r) (codeField r) := by
  rw [decodeRequest, opField, h, if_neg Bool.false_ne_true]

theorem decodeRequest_of_verify {r : Request} (h : r.getLsbD 0 = true) :
    decodeRequest r = .verify (dataField r) (codeField r) := by
  rw [decodeRequest, opField, h, if_pos rfl]

theorem dataField_eq_shift (r : Request) : dataField r = (r >>> 1).setWidth 64 :=
  BitVec.setWidth_ushiftRight_eq_extractLsb.symm

theorem codeField_eq_shift (r : Request) : codeField r = (r >>> 65).setWidth 8 :=
  BitVec.setWidth_ushiftRight_eq_extractLsb.symm

/-- R47: the types of the operands ask for all that an instruction must meet. -/
theorem Instr.wellFormed_eq_true (i : Instr) : i.wellFormed = true := by
  cases i <;> rfl

/-- Settles O2: `op` selects the constructor, the operands are the other two fields, and every instruction answers a next state. -/
theorem everyRequestSelectsOneOperation : Obligations.EveryRequestSelectsOneOperation := by
  unfold Obligations.EveryRequestSelectsOneOperation
  intro r
  rw [← dataField_eq_shift, ← codeField_eq_shift]
  refine ⟨decodeRequest_of_encode, decodeRequest_of_verify, Instr.wellFormed_eq_true _, fun s => ?_⟩
  obtain ⟨t, hexec, -⟩ := exec_next (decodeRequest r) s
  exact ⟨t, hexec⟩

/-! ### Steps -/

/-- Settles O4: the next request is taken by `State.fetch`, from a queue that has one or has none. -/
theorem stepRunsTheDecodedRequest : Obligations.StepRunsTheDecodedRequest := by
  unfold Obligations.StepRunsTheDecodedRequest
  refine ⟨fun s r rest h => ?_, fun s h => ?_⟩
  · rw [step, State.fetch_cons h]
  · rw [step, State.fetch_nil h, State.idle]

/-- A table word is read by reading the request that its number stands for. -/
theorem decodeTableWord_eq_some {nbits w : Nat} {i : Instr} (h : decodeTableWord nbits w = some i) :
    ∃ r, requestOfNumber (tableWord nbits w) = .ok r ∧ decodeRequest r = i := by
  cases hr : requestOfNumber (tableWord nbits w) with
  | ok r => exact ⟨r, rfl, by simpa [decodeTableWord, decodeNumber, hr] using h⟩
  | error e => simp [decodeTableWord, decodeNumber, hr] at h

/-- Settles O5: the request that is placed is the one that `decodeTableWord` reads. -/
theorem stepRunsThePlacedWord : Obligations.StepRunsThePlacedWord := by
  unfold Obligations.StepRunsThePlacedWord
  intro s nbits w i h
  obtain ⟨r, hr, rfl⟩ := decodeTableWord_eq_some h
  rw [State.withFetchWord, hr]
  exact step_present s r

/-- Bits 64:0 of a request determine its `op` (R40). -/
theorem getLsbD_zero_of_setWidth_eq {r r' : Request} (h : r.setWidth 65 = r'.setWidth 65) : r.getLsbD 0 = r'.getLsbD 0 := by
  simpa using congrArg (fun x => x.getLsbD 0) h

/-- Bits 64:0 of a request determine its payload operand (R40). -/
theorem dataField_of_setWidth_eq {r r' : Request} (h : r.setWidth 65 = r'.setWidth 65) : dataField r = dataField r' := by
  have cut (x : Request) : (x.setWidth 65).extractLsb' 1 64 = dataField x :=
    BitVec.extractLsb'_setWidth_of_le (by decide)
  rw [← cut r, ← cut r', h]

/-- ENCODE's second operand has no effect: `execEncode_eq` does not name it (R47, D19). -/
theorem exec_encode_unused (data : Word) (c c' : Code) (s : State) :
    exec (.encode data c) s = exec (.encode data c') s := rfl

/-- Settles O7: the two requests decode to ENCODE of one word, which ignores its other operand. -/
theorem encodeIgnoresTheCodeField : Obligations.EncodeIgnoresTheCodeField := by
  unfold Obligations.EncodeIgnoresTheCodeField
  intro r r' s hop hlow
  have hop' : r'.getLsbD 0 = false := (getLsbD_zero_of_setWidth_eq hlow).symm.trans hop
  rw [step_present, step_present, decodeRequest_of_encode hop, decodeRequest_of_encode hop', dataField_of_setWidth_eq hlow]
  exact exec_encode_unused _ _ _ s

/-! ### The layouts of the Hamming field and of the code -/

/-- Bits put side by side, as a byte, are the OR of the bits moved to their places (R42). -/
theorem setWidth_append_bits : ∀ b0 b1 b2 b3 b4 b5 b6 : Bool,
    (BitVec.ofBool b6 ++ BitVec.ofBool b5 ++ BitVec.ofBool b4 ++ BitVec.ofBool b3 ++ BitVec.ofBool b2 ++ BitVec.ofBool b1 ++
      BitVec.ofBool b0 : Hamming).setWidth 8 =
    (BitVec.ofBool b0).setWidth 8 ||| (BitVec.ofBool b1).setWidth 8 <<< 1 ||| (BitVec.ofBool b2).setWidth 8 <<< 2 |||
      (BitVec.ofBool b3).setWidth 8 <<< 3 ||| (BitVec.ofBool b4).setWidth 8 <<< 4 ||| (BitVec.ofBool b5).setWidth 8 <<< 5 |||
      (BitVec.ofBool b6).setWidth 8 <<< 6 := by
  decide

/-- R42's `(data >> 63) & 1` is the raw bit `data[63]`. -/
theorem topBit_eq_ofBool (data : Word) :
    ((data >>> 63) &&& 1#64).setWidth 8 = (BitVec.ofBool (data.getLsbD 63)).setWidth 8 := by
  simp [BitVec.and_one_eq_setWidth_ofBool_getLsbD]

/-- Hamming bit 6 is the raw bit `data[63]` (R54, R65). -/
theorem getLsbD_hamming7_six (data : Word) (m : MaskTable) : (hamming7 data m).getLsbD 6 = data.getLsbD 63 := by
  simp only [hamming7, BitVec.getLsbD_append]
  simp

/-- Code bit `j + 1` is Hamming bit `j` (R41). -/
theorem getLsbD_secdedEncode_succ (data : Word) (m : MaskTable) (j : Nat) :
    (secdedEncode data m).getLsbD (j + 1) = (hamming7 data m).getLsbD j := by
  rw [secdedEncode, BitVec.getLsbD_append]
  simp

/-- Code bit 0 is the global parity (R41). -/
theorem getLsbD_secdedEncode_zero (data : Word) (m : MaskTable) :
    (secdedEncode data m).getLsbD 0 = globalParity data (hamming7 data m) := by
  rw [secdedEncode, BitVec.getLsbD_append]
  simp

/-- Settles O10: the packing is `setWidth_append_bits`, the code's bits are those of `{h, gp}`. -/
theorem hammingFieldPackingAndCodeLayout : Obligations.HammingFieldPackingAndCodeLayout := by
  unfold Obligations.HammingFieldPackingAndCodeLayout
  intro data
  refine ⟨?_, ?_, fun j => getLsbD_secdedEncode_succ data maskTable j, ?_, getLsbD_secdedEncode_zero data maskTable⟩
  · rw [topBit_eq_ofBool]
    exact setWidth_append_bits _ _ _ _ _ _ _
  · rw [BitVec.getLsbD_setWidth, BitVec.getLsbD_of_ge (hamming7 data) 7 (Nat.le_refl 7), Bool.and_false]
  · rw [getLsbD_secdedEncode_succ data maskTable 6, getLsbD_hamming7_six]

/-- The two fields of a stored code, put together, are the code (R43). -/
theorem storedFields_append (code : Code) : storedHamming code ++ BitVec.ofBool (storedParity code) = code := by
  apply BitVec.eq_of_getLsbD_eq
  intro i hi
  rw [BitVec.getLsbD_append]
  cases i with
  | zero => simp [storedParity]
  | succ k =>
    have hk : k < 7 := by omega
    simp [storedHamming, hk, Nat.add_comm]

/-- Settles O19: a shift that is cut is a field (R43). -/
theorem storedCodeSplitsIntoHammingAndParity : Obligations.StoredCodeSplitsIntoHammingAndParity :=
  fun code => ⟨BitVec.setWidth_ushiftRight_eq_extractLsb.symm, rfl, storedFields_append code⟩

/-! ### The status encoding and its consumer -/

/-- The decoder has three statuses; the fourth value is none of them (R45). -/
theorem VerifyOutcome.status_ne_three (o : VerifyOutcome) : o.status ≠ 0b11#2 := by
  cases o <;> simp

/-- Settles O26: the response is packed from the two outputs, and unpacking it gives them back. -/
theorem outcomeDrivesStatusAndWord : Obligations.OutcomeDrivesStatusAndWord := by
  unfold Obligations.OutcomeDrivesStatusAndWord
  refine ⟨fun data w => by simp, fun data code s => ?_, fun s => s.decOutcome.status_ne_three⟩
  exact ⟨_, _, execVerify_eq data code s, rfl, rspStatus_packRsp _ _, rspDataOut_packRsp _ _, rfl, rfl⟩

/-- A consumer that reads what an outcome drives reads that outcome (R45, R47). -/
theorem readOutcome_status (data : Word) (o : VerifyOutcome) : readOutcome o.status (o.dataOut data) = .ok o := by
  cases o <;> simp [readOutcome]

/-- Settles O27: `readOutcome` inverts the encoding of the outcome that the decoder drives, and faults on the value left over. -/
theorem consumerReadsTheOutcome : Obligations.ConsumerReadsTheOutcome :=
  ⟨fun s => readOutcome_status s.decData s.decOutcome, fun _ => rfl⟩

/-! ### What each operation changes -/

/-- Settles O38: a transaction's next state is the one that `execEncode_eq` or `execVerify_eq` writes out, and each output is a
function of inputs that are written or kept there. -/
theorem datapathsAreIndependent : Obligations.DatapathsAreIndependent := by
  unfold Obligations.DatapathsAreIndependent
  refine ⟨fun data unused s t h => ?_, fun data code s t h => ?_⟩
  · obtain rfl := Host.Outcome.next.inj ((execEncode_eq data unused s).symm.trans h)
    exact ⟨rfl, rfl, rfl, rfl, rfl, rfl, rfl, rfl⟩
  · obtain rfl := Host.Outcome.next.inj ((execVerify_eq data code s).symm.trans h)
    exact ⟨rfl, rfl, rfl, rfl, rfl, rfl, rfl, rfl⟩

/-- The output `enc_code` in any state (R38). -/
theorem encCode_eq (s : State) : s.encCode = secdedEncode s.encData := rfl

/-- Settles O39: the outputs by their equations, before and after the ports are driven; the transactions by `exec_next`. -/
theorem outputsFollowTheInputs : Obligations.OutputsFollowTheInputs := by
  unfold Obligations.OutputsFollowTheInputs
  refine ⟨fun s => ⟨encCode_eq s, decStatus_eq s, decDataOut_eq s⟩,
    fun s a d c => ⟨encCode_eq _, decStatus_eq _, decDataOut_eq _⟩, fun s a d c unused => ?_⟩
  obtain ⟨t, hencode, -, hcode⟩ := exec_next (.encode a unused) s
  obtain ⟨u, hverify, -, hverdict⟩ := exec_next (.verify d c) s
  exact ⟨t, u, hencode, hcode, hverify, hverdict⟩

/-! ### The invariant -/

/-- Settles O44: no response has been read at power-up. -/
theorem resetSatisfiesTheInvariant : Obligations.ResetSatisfiesTheInvariant :=
  fun _ h => absurd h List.not_mem_nil

/-- Every instruction's result is a response that the block can give (R45). -/
theorem legal_resultOf (i : Instr) : (resultOf i).legal = true := by
  cases i with
  | encode data unused => rfl
  | verify data code => simp [resultOf, verdictOf, Response.legal, VerifyOutcome.status_ne_three]

/-- The invariant reads the responses alone, so one legal response more keeps it. -/
theorem State.Inv.of_responses_append {s t : State} {x : Response} (hs : s.Inv) (hx : x.legal = true)
    (h : t.responses = s.responses ++ [x]) : t.Inv := by
  intro y hy
  rw [h, List.mem_append, List.mem_singleton] at hy
  obtain hold | rfl := hy
  · exact hs y hold
  · exact hx

/-- A step keeps the invariant: it changes nothing, or adds the result of an instruction. -/
theorem inv_of_step {s t : State} (hs : s.Inv) (h : step s = .next t) : t.Inv := by
  obtain ⟨-, rfl⟩ | ⟨r, rest, -, -, -, hresponses⟩ := step_cases h
  · exact hs
  · exact hs.of_responses_append (legal_resultOf (decodeRequest r)) hresponses

/-- Settles O45, by `inv_of_step`. -/
theorem stepKeepsTheInvariant : Obligations.StepKeepsTheInvariant :=
  fun _ _ => inv_of_step

/-- Every step answers a next state (R47, R51, R85). -/
theorem step_next (s : State) : ∃ t, step s = .next t := by
  cases h : s.requests with
  | nil => exact ⟨s, by rw [step, State.fetch_nil h, State.idle]⟩
  | cons r rest =>
    obtain ⟨t, hstep, -⟩ := step_next_of_requests_cons h
    exact ⟨t, hstep⟩

/-- What holds at first and lets every step go on and keep it lets a run of any length go on, and holds at its end. -/
theorem run_next_of_step {M : Host.Core} {P : M.State → Prop}
    (hstep : ∀ s, P s → ∃ t, M.step s = .next t ∧ P t) (n : Nat) : ∀ s, P s → ∃ t, M.run n s = .next t ∧ P t := by
  induction n with
  | zero => exact fun s hs => ⟨s, rfl, hs⟩
  | succ n ih =>
    intro s hs
    obtain ⟨u, hu, hPu⟩ := hstep s hs
    rw [run_succ_of_step hu]
    exact ih u hPu

/-- Settles O46: every step goes on (`step_next`) and keeps the invariant (`inv_of_step`). -/
theorem everyRunIsSafe : Obligations.EveryRunIsSafe := by
  unfold Obligations.EveryRunIsSafe
  refine run_next_of_step (M := Sys2Proof.core) (P := State.Inv) fun s hs => ?_
  obtain ⟨t, hstep⟩ := step_next s
  exact ⟨t, hstep, inv_of_step hs hstep⟩

/-! ### The textual form -/

/-- A character that belongs to a word of a line: it parts no words, is no comma and starts no comment (R49). -/
def isWordChar (c : Char) : Bool := c ∉ [' ', '\t', ',', ';']

/-- Characters of a word are read onto the word at hand. -/
theorem wordsFrom_append {cs : List Char} (h : ∀ c ∈ cs, isWordChar c = true) (word rest : List Char) :
    wordsFrom word (cs ++ rest) = wordsFrom (word ++ cs) rest := by
  induction cs generalizing word with
  | nil => simp
  | cons c cs ih =>
    obtain ⟨hc, hcs⟩ := List.forall_mem_cons.mp h
    simp only [isWordChar, decide_eq_true_eq, List.mem_cons, List.not_mem_nil, not_or] at hc
    obtain ⟨hblank, htab, hcomma, -⟩ := hc
    rw [List.cons_append, wordsFrom, if_neg (by simp [hblank, htab]), if_neg hcomma, ih hcs, List.append_assoc,
      List.singleton_append]

/-- The digits are read back from their characters. -/
theorem hexDigits?_map_hexChar (ds : List (Fin 16)) : hexDigits? (ds.map hexChar) = some ds := by
  have digit : ∀ d : Fin 16, hexDigit? (hexChar d) = some d := by decide
  induction ds with
  | nil => rfl
  | cons d ds ih => simp [hexDigits?, digit, ih]

@[simp] theorem hexLiteral?_literalText (ds : List (Fin 16)) : hexLiteral? (literalText ds) = some ds :=
  hexDigits?_map_hexChar ds

theorem isWordChar_of_mem_literalText (ds : List (Fin 16)) : ∀ c ∈ literalText ds, isWordChar c = true := by
  have digit : ∀ d : Fin 16, isWordChar (hexChar d) = true := by decide
  have lead : isWordChar '0' = true ∧ isWordChar 'x' = true := by decide
  simp [literalText, digit, lead]

/-- A literal, where a new word may begin, is read whole. -/
theorem wordsFrom_literalText (ds : List (Fin 16)) (rest : List Char) :
    wordsFrom [] (literalText ds ++ rest) = wordsFrom (literalText ds) rest :=
  wordsFrom_append (isWordChar_of_mem_literalText ds) [] rest

theorem wordsFrom_literalText_end (ds : List (Fin 16)) : wordsFrom [] (literalText ds) = [literalText ds] := by
  have hne : literalText ds ≠ [] := List.cons_ne_nil _ _
  have h := wordsFrom_literalText ds []
  rw [List.append_nil] at h
  rw [h, wordsFrom, wordOf, if_neg hne]

/-- The words of a statement's text. -/
def statementWords : ScriptLine → List (List Char)
  | .encode data => [['E', 'N', 'C', 'O', 'D', 'E'], literalText data]
  | .verify data code => [['V', 'E', 'R', 'I', 'F', 'Y'], literalText data, [','], literalText code]

theorem wordsFrom_statementText (l : ScriptLine) : wordsFrom [] (statementText l) = statementWords l := by
  cases l with
  | encode data =>
    calc
      wordsFrom [] (statementText (.encode data))
      _ = ['E', 'N', 'C', 'O', 'D', 'E'] :: wordsFrom [] (literalText data) := rfl
      _ = statementWords (.encode data) := by rw [wordsFrom_literalText_end, statementWords]
  | verify data code =>
    calc
      wordsFrom [] (statementText (.verify data code))
      _ = wordsFrom [] (['V', 'E', 'R', 'I', 'F', 'Y', ' '] ++ (literalText data ++ ([',', ' '] ++ literalText code))) := by
        rw [statementText, List.append_assoc, List.append_assoc]
      _ = ['V', 'E', 'R', 'I', 'F', 'Y'] :: wordsFrom [] (literalText data ++ ([',', ' '] ++ literalText code)) := rfl
      _ = ['V', 'E', 'R', 'I', 'F', 'Y'] :: wordsFrom (literalText data) ([',', ' '] ++ literalText code) := by
        rw [wordsFrom_literalText]
      _ = ['V', 'E', 'R', 'I', 'F', 'Y'] :: literalText data :: [','] :: wordsFrom [] (literalText code) := rfl
      _ = statementWords (.verify data code) := by rw [wordsFrom_literalText_end, statementWords]

/-- A statement's words make it, if its literals have lengths that R49 allows. -/
theorem statementOf_statementWords (l : ScriptLine) : statementOf (statementWords l) = checked l := by
  cases l with
  | encode data => simp [statementWords, statementOf]
  | verify data code => simp [statementWords, statementOf]

/-- A comment behind a statement is dropped, and nothing of the statement is (R49). -/
theorem dropComment_statementText (l : ScriptLine) {comment : List Char} (h : comment = [] ∨ comment.head? = some ';') :
    dropComment (statementText l ++ comment) = statementText l := by
  have literal (ds : List (Fin 16)) : ';' ∉ literalText ds := fun hmem =>
    absurd (isWordChar_of_mem_literalText ds ';' hmem) (by decide)
  have hnone : ';' ∉ statementText l := by
    cases l with
    | encode data => simp [statementText, literal]
    | verify data code => simp [statementText, literal]
  have htext : ∀ c ∈ statementText l, (c != ';') = true := fun c hc =>
    bne_iff_ne.mpr (ne_of_mem_of_not_mem hc hnone)
  have hcomment : comment.takeWhile (· != ';') = [] := by
    cases comment with
    | nil => rfl
    | cons c cs =>
      have hc : c = ';' := by simpa using h
      simp [hc]
  rw [dropComment, List.takeWhile_append_of_pos htext, hcomment, List.append_nil]

/-- What the text of a statement reads as, with or without a comment: the statement, if its literals have lengths that R49 allows. -/
theorem parseLine_statementText (l : ScriptLine) {comment : List Char} (h : comment = [] ∨ comment.head? = some ';') :
    parseLine (statementText l ++ comment) = checked l := by
  rw [parseLine, dropComment_statementText l h, wordsFrom_statementText, statementOf_statementWords]

theorem checked_of_wellFormed {l : ScriptLine} (h : l.wellFormed = true) : checked l = .ok (some l) := by
  simp [checked, h]

theorem checked_of_illFormed {l : ScriptLine} (h : l.wellFormed = false) : checked l = .error .badLiteral := by
  simp [checked, h]

/-- The value of `n` hexadecimal digits fits in `4 n` bits. -/
theorem digitsValue_lt (ds : List (Fin 16)) : digitsValue ds < 16 ^ ds.length := by
  induction ds using List.reverseRecOn with
  | nil => decide
  | append_singleton ds d ih =>
    have hd := d.isLt
    simp only [digitsValue, List.foldl_append, List.foldl_cons, List.foldl_nil, List.length_append, List.length_singleton,
      Nat.pow_succ] at ih ⊢
    omega

/-- Zero extension cuts nothing of a literal that is not too long for its operand. -/
theorem toNat_ofNat_digitsValue {ds : List (Fin 16)} {w n : Nat} (hlength : ds.length ≤ n) (hwidth : 16 ^ n = 2 ^ w) :
    (BitVec.ofNat w (digitsValue ds)).toNat = digitsValue ds := by
  rw [BitVec.toNat_ofNat, Nat.mod_eq_of_lt]
  calc digitsValue ds < 16 ^ ds.length := digitsValue_lt ds
    _ ≤ 16 ^ n := Nat.pow_le_pow_right (by decide) hlength
    _ = 2 ^ w := hwidth

theorem toNat_dataLiteral {ds : List (Fin 16)} (h : dataLiteralOk ds = true) :
    (BitVec.ofNat 64 (digitsValue ds)).toNat = digitsValue ds := by
  rw [dataLiteralOk, Bool.and_eq_true, decide_eq_true_eq, decide_eq_true_eq] at h
  obtain ⟨-, hlength⟩ := h
  exact toNat_ofNat_digitsValue hlength (by decide)

theorem toNat_codeLiteral {ds : List (Fin 16)} (h : codeLiteralOk ds = true) :
    (BitVec.ofNat 8 (digitsValue ds)).toNat = digitsValue ds := by
  rw [codeLiteralOk, Bool.and_eq_true, decide_eq_true_eq, decide_eq_true_eq] at h
  obtain ⟨-, hlength⟩ := h
  exact toNat_ofNat_digitsValue hlength (by decide)

/-- A line that reads as a statement puts that statement's request before those of the other lines. -/
theorem assemble_cons {line : List Char} {rest : List (List Char)} {l : ScriptLine} {rs : List Request}
    (hline : parseLine line = .ok (some l)) (hrest : assemble rest = .ok rs) :
    assemble (line :: rest) = .ok (encode (instrOfLine l) :: rs) := by
  rw [assemble, hline, hrest]

/-- Settles O47: every statement's text reads as `checked` has it; the literals' values are bounded by their lengths; and the script
is assembled by induction over its lines. -/
theorem scriptTextReadsBack : Obligations.ScriptTextReadsBack := by
  unfold Obligations.ScriptTextReadsBack
  have reads {l : ScriptLine} {comment : List Char} (hl : l.wellFormed = true)
      (hcomment : comment = [] ∨ comment.head? = some ';') : parseLine (statementText l ++ comment) = .ok (some l) :=
    (parseLine_statementText l hcomment).trans (checked_of_wellFormed hl)
  refine ⟨fun l comment => reads, fun l hl => ?_, fun data hdata => ?_, fun data code h => ?_, fun script => ?_⟩
  · simpa [checked_of_illFormed hl] using parseLine_statementText l (.inl rfl)
  · exact ⟨_, rfl, toNat_dataLiteral hdata⟩
  · obtain ⟨hdata, hcode⟩ := Bool.and_eq_true_iff.mp h
    exact ⟨_, _, rfl, toNat_dataLiteral hdata, toNat_codeLiteral hcode⟩
  · induction script with
    | nil => exact fun _ => rfl
    | cons x script ih =>
      intro h
      obtain ⟨⟨hwellFormed, hcomment⟩, hscript⟩ := List.forall_mem_cons.mp h
      exact assemble_cons (reads hwellFormed hcomment) (ih hscript)

end Sys2Proof.Machine

/-! PROOFS. The encode family (40_encode.md): maps that are linear over XOR, the Parity Primitive, the Hamming Encoder and the SECDED
Composer. -/

namespace Sys2Proof.Machine

/-! ### Maps that are linear over XOR (R57) -/

section XorLinear

variable {n w : Nat}

/-- Linearity over XOR, the `f(a XOR b) = f(a) XOR f(b)` of R57. -/
def XorLinear (f : BitVec n → BitVec w) : Prop := ∀ a b, f (a ^^^ b) = f a ^^^ f b

/-- The XOR of the values `g i` over the set bits `i` of `v`, as R58 sums the columns. -/
def xorOverBits (v : BitVec n) (g : Fin n → BitVec w) : BitVec w :=
  (List.finRange n).foldl (fun x i => if v.getLsbD i.val then x ^^^ g i else x) 0#w

theorem XorLinear.map_zero {f : BitVec n → BitVec w} (hf : XorLinear f) : f 0#n = 0#w := by
  simpa using hf 0#n 0#n

theorem XorLinear.map_xorOverBits {k : Nat} {f : BitVec n → BitVec w} (hf : XorLinear f) (v : BitVec k)
    (g : Fin k → BitVec n) : f (xorOverBits v g) = xorOverBits v fun i => f (g i) := by
  have hround : ∀ (x : BitVec n) (i : Fin k),
      (if v.getLsbD i.val then f x ^^^ f (g i) else f x) = f (if v.getLsbD i.val then x ^^^ g i else x) := by
    intro x i
    split
    · rw [hf]
    · rfl
  rw [xorOverBits, xorOverBits, ← hf.map_zero, List.foldl_hom f hround]

theorem getLsbD_oneBit (i : Fin n) (j : Nat) : (1#n <<< i.val).getLsbD j = decide (i.val = j) := by
  rw [← BitVec.twoPow_eq, BitVec.getLsbD_twoPow, decide_eq_true i.isLt, Bool.true_and]

/-- XORing single bits of `v` onto `x` changes the bits of `x` that are listed and set in `v`. -/
theorem getLsbD_foldl_xor_oneBits (v : BitVec n) (j : Fin n) {l : List (Fin n)} (hl : l.Nodup) (x : BitVec n) :
    (l.foldl (fun x i => if v.getLsbD i.val then x ^^^ 1#n <<< i.val else x) x).getLsbD j.val =
      (x.getLsbD j.val ^^ (decide (j ∈ l) && v.getLsbD j.val)) := by
  induction l generalizing x with
  | nil => simp
  | cons i l ih =>
    obtain ⟨hi, hl⟩ := List.nodup_cons.mp hl
    have hround : (if v.getLsbD i.val then x ^^^ 1#n <<< i.val else x).getLsbD j.val =
        (x.getLsbD j.val ^^ (decide (j = i) && v.getLsbD j.val)) := by
      rcases eq_or_ne j i with rfl | hji
      · cases v.getLsbD j.val <;> simp
      · have hother : (1#n <<< i.val).getLsbD j.val = false := by
          rw [getLsbD_oneBit, decide_eq_false (Fin.val_ne_of_ne hji.symm)]
        split <;> simp only [BitVec.getLsbD_xor, hother, hji, decide_false, Bool.false_and, Bool.xor_false]
    rw [List.foldl_cons, ih hl, hround, Bool.xor_assoc, ← Bool.and_xor_distrib_right]
    rcases eq_or_ne j i with rfl | hji
    · simp [hi]
    · simp [hji]

/-- A value is the XOR of its set bits. -/
theorem xorOverBits_oneBits (v : BitVec n) : xorOverBits v (fun i => 1#n <<< i.val) = v := by
  apply BitVec.eq_of_getLsbD_eq
  intro j hj
  simpa [xorOverBits] using getLsbD_foldl_xor_oneBits v ⟨j, hj⟩ (List.nodup_finRange n) 0#n

/-- A linear map is the XOR of its values on the set bits. -/
theorem XorLinear.eq_xorOverBits {f : BitVec n → BitVec w} (hf : XorLinear f) (v : BitVec n) :
    f v = xorOverBits v fun i => f (1#n <<< i.val) := by
  rw [← hf.map_xorOverBits, xorOverBits_oneBits]

/-- Two linear maps that agree on the single bits are equal. -/
theorem XorLinear.eq_of_oneBits {f g : BitVec n → BitVec w} (hf : XorLinear f) (hg : XorLinear g)
    (h : ∀ i : Fin n, f (1#n <<< i.val) = g (1#n <<< i.val)) (v : BitVec n) : f v = g v := by
  rw [hf.eq_xorOverBits, hg.eq_xorOverBits]
  simp only [h]

/-- A linear map that gives every single bit as a value gives every value. -/
theorem XorLinear.surjective {f : BitVec n → BitVec w} (hf : XorLinear f) {g : Fin w → BitVec n}
    (hg : ∀ i : Fin w, f (g i) = 1#w <<< i.val) : Function.Surjective f := by
  intro y
  refine ⟨xorOverBits y g, ?_⟩
  rw [hf.map_xorOverBits]
  simp only [hg]
  exact xorOverBits_oneBits y

theorem natCard_bitVec (n : Nat) : Nat.card (BitVec n) = 2 ^ n := by
  rw [Nat.card_congr BitVec.equivFin.toEquiv, Nat.card_fin]

/-- Two values of a linear map that is onto have equally many arguments: XOR with an argument of their difference exchanges them. -/
theorem XorLinear.card_fiber_eq {f : BitVec n → BitVec w} (hf : XorLinear f) (hsurj : Function.Surjective f)
    (y z : BitVec w) : Nat.card { x // f x = y } = Nat.card { x // f x = z } := by
  obtain ⟨a, ha⟩ := hsurj (y ^^^ z)
  have hinvolutive : Function.Involutive fun x : BitVec n => x ^^^ a := fun x => by simp
  refine Nat.card_congr (hinvolutive.toPerm.subtypeEquiv fun x => ?_)
  have hshift : f (x ^^^ a) = z ↔ f x ^^^ (y ^^^ z) = y ^^^ (y ^^^ z) := by
    rw [hf, ha, ← BitVec.xor_assoc y y z, BitVec.xor_self, BitVec.zero_xor]
  exact (BitVec.xor_left_inj _).symm.trans hshift.symm

/-- A linear map of `n` bits onto `w` bits takes each value for a share of `1 / 2^w` of its `2^n` arguments. -/
theorem XorLinear.card_fiber_mul {f : BitVec n → BitVec w} (hf : XorLinear f) (hsurj : Function.Surjective f)
    (y : BitVec w) : 2 ^ w * Nat.card { x // f x = y } = 2 ^ n := by
  calc
    2 ^ w * Nat.card { x // f x = y }
    _ = ∑ _z : BitVec w, Nat.card { x // f x = y } := by
      rw [Finset.sum_const, Finset.card_univ, ← Nat.card_eq_fintype_card, natCard_bitVec, smul_eq_mul]
    _ = ∑ z : BitVec w, Nat.card { x // f x = z } := Finset.sum_congr rfl fun z _ => hf.card_fiber_eq hsurj y z
    _ = Nat.card ((z : BitVec w) × { x // f x = z }) := Nat.card_sigma.symm
    _ = Nat.card (BitVec n) := Nat.card_congr (Equiv.sigmaFiberEquiv f)
    _ = 2 ^ n := natCard_bitVec n

end XorLinear

/-! ### The number of set bits -/

/-- The number of set bits is odd; R53's `popcount(v) mod 2` as a bit. -/
def popcountOdd {n : Nat} (v : BitVec n) : Bool := decide (popcount v % 2 = 1)

theorem popcount_append {n w : Nat} (x : BitVec n) (y : BitVec w) : popcount (x ++ y) = popcount x + popcount y := by
  have hlow : (List.range w).countP (x ++ y).getLsbD = popcount y := by
    refine List.countP_congr fun i hi => ?_
    simp [BitVec.getLsbD_append, List.mem_range.mp hi]
  have hhigh : (List.range n).countP ((x ++ y).getLsbD ∘ fun i => w + i) = popcount x := by
    refine List.countP_congr fun i _ => ?_
    simp [BitVec.getLsbD_append]
  calc
    popcount (x ++ y)
    _ = (List.range (w + n)).countP (x ++ y).getLsbD := by rw [Nat.add_comm w n, popcount]
    _ = popcount y + popcount x := by rw [List.range_add, List.countP_append, List.countP_map, hlow, hhigh]
    _ = popcount x + popcount y := Nat.add_comm _ _

theorem popcountOdd_append {n w : Nat} (x : BitVec n) (y : BitVec w) :
    popcountOdd (x ++ y) = (popcountOdd x ^^ popcountOdd y) := by
  rw [Bool.eq_iff_iff, Bool.xor_iff_ne]
  simp only [popcountOdd, popcount_append, decide_eq_true_eq, ne_eq, decide_eq_decide]
  omega

theorem popcountOdd_ofBool : ∀ b : Bool, popcountOdd (BitVec.ofBool b) = b := by
  decide

theorem popcount_zero (n : Nat) : popcount 0#n = 0 := by
  simp [popcount]

theorem popcount_cast {n w : Nat} (h : n = w) (v : BitVec n) : popcount (v.cast h) = popcount v := by
  subst h
  rfl

/-- Zero extension adds no set bit. -/
theorem popcount_setWidth {n w : Nat} (h : n ≤ w) (v : BitVec n) : popcount (v.setWidth w) = popcount v := by
  rw [BitVec.setWidth_eq_append h, popcount_cast, popcount_append, popcount_zero, Nat.zero_add]

/-! ### The Parity Primitive (R53) -/

theorem parity64_xor (a b : Word) : parity64 (a ^^^ b) = (parity64 a ^^ parity64 b) := by
  simp only [parity64, foldDown_xor, BitVec.getLsbD_xor]

theorem parity64_zero : parity64 0#64 = false := by
  decide

theorem parity64_oneBit : ∀ i : Fin 64, parity64 (1#64 <<< i.val) = true := by
  decide

theorem parityLoop_xor (n : Nat) (a b : Word) : parityLoop n (a ^^^ b) = (parityLoop n a ^^ parityLoop n b) := by
  induction n with
  | zero => rfl
  | succ n ih =>
    simp only [parityLoop, ih, BitVec.getLsbD_xor, Bool.xor_assoc, Bool.xor_left_comm (parityLoop n b)]

/-- The loop finds a single bit when it comes to its place. -/
theorem parityLoop_oneBit (n : Nat) (i : Fin 64) : parityLoop n (1#64 <<< i.val) = decide (i.val < n) := by
  induction n with
  | zero => rfl
  | succ n ih =>
    rw [parityLoop, ih, getLsbD_oneBit, Bool.eq_iff_iff, Bool.xor_iff_ne]
    simp only [decide_eq_true_eq, ne_eq, decide_eq_decide]
    omega

theorem xorLinear_parity64 : XorLinear fun v : Word => BitVec.ofBool (parity64 v) := fun a b => by
  simp [parity64_xor]

theorem xorLinear_parityLoop (n : Nat) : XorLinear fun v : Word => BitVec.ofBool (parityLoop n v) := fun a b => by
  simp [parityLoop_xor]

/-- The fold gives what the loop gives: both are linear over XOR, and both are 1 on a single bit. -/
theorem parity64_eq_parityLoop (v : Word) : parity64 v = parityLoop 64 v := by
  apply BitVec.ofBool_eq_iff_eq.mp
  refine xorLinear_parity64.eq_of_oneBits (xorLinear_parityLoop 64) (fun i => ?_) v
  rw [parity64_oneBit, parityLoop_oneBit, decide_eq_true i.isLt]

/-- After `n` rounds the loop holds the parity of the number of set bits below bit `n`. -/
theorem parityLoop_eq_countP (n : Nat) (v : Word) :
    parityLoop n v = decide ((List.range n).countP v.getLsbD % 2 = 1) := by
  induction n with
  | zero => rfl
  | succ n ih =>
    rw [parityLoop, ih, List.range_succ, List.countP_append, List.countP_singleton]
    cases v.getLsbD n with
    | false => simp
    | true =>
      rw [Bool.xor_true, ← decide_not, decide_eq_decide, if_pos rfl]
      omega

theorem parity64_eq_popcountOdd (v : Word) : parity64 v = popcountOdd v := by
  rw [parity64_eq_parityLoop, parityLoop_eq_countP, popcountOdd, popcount]

theorem parity64_setWidth {n : Nat} (h : n ≤ 64) (v : BitVec n) : parity64 (v.setWidth 64) = popcountOdd v := by
  rw [parity64_eq_popcountOdd, popcountOdd, popcount_setWidth h, popcountOdd]

/-- Settles O8: the fold is the loop (`parity64_eq_parityLoop`), and the loop counts the set bits modulo 2. -/
theorem parityFoldIsTheLoop : Obligations.ParityFoldIsTheLoop := by
  unfold Obligations.ParityFoldIsTheLoop
  exact ⟨fun v => ⟨parity64_eq_parityLoop v, parity64_eq_popcountOdd v⟩, parity64_zero, by decide, parity64_oneBit,
    parity64_setWidth (by decide), by decide, by decide⟩

theorem parity64_and_xor (a b k : Word) : parity64 ((a ^^^ b) &&& k) = (parity64 (a &&& k) ^^ parity64 (b &&& k)) := by
  have hdistrib : (a ^^^ b) &&& k = (a &&& k) ^^^ (b &&& k) := by
    apply BitVec.eq_of_getLsbD_eq
    intro i _
    simp only [BitVec.getLsbD_and, BitVec.getLsbD_xor, Bool.and_xor_distrib_right]
  rw [hdistrib, parity64_xor]

/-- A mask reads one bit of a word that has no other set bit. -/
theorem parity64_oneBit_and (i : Fin 64) (k : Word) : parity64 (1#64 <<< i.val &&& k) = k.getLsbD i.val := by
  rw [← BitVec.twoPow_eq, BitVec.twoPow_and, BitVec.twoPow_eq]
  cases k.getLsbD i.val with
  | false => exact parity64_zero
  | true => exact parity64_oneBit i

/-- The loop over a masked word is the loop over the places that the mask has. -/
theorem parityLoop_and (n : Nat) (v k : Word) :
    parityLoop n (v &&& k) = ((List.range n).filter k.getLsbD).foldl (fun p i => p ^^ v.getLsbD i) false := by
  induction n with
  | zero => rfl
  | succ n ih =>
    rw [parityLoop, ih, List.range_succ, List.filter_append, List.foldl_append, BitVec.getLsbD_and]
    cases h : k.getLsbD n <;> simp [h]

theorem xorLinear_parity64_and (k : Word) : XorLinear fun v : Word => BitVec.ofBool (parity64 (v &&& k)) := fun a b => by
  simp [parity64_and_xor]

/-- The parity under a mask that is not 0 is 1 for half of all words. -/
theorem card_parity64_and {k : Word} (hk : k ≠ 0#64) :
    Nat.card { data : Word // parity64 (data &&& k) = true } = 2 ^ 63 := by
  obtain ⟨i, hi⟩ : ∃ i : Fin 64, k.getLsbD i.val = true := by
    by_contra! hnone
    refine hk (BitVec.eq_of_getLsbD_eq fun i hi => ?_)
    simpa using hnone ⟨i, hi⟩
  have hsurj := (xorLinear_parity64_and k).surjective (g := fun _ => 1#64 <<< i.val) fun b => by
    rw [parity64_oneBit_and, hi, Subsingleton.elim b 0]
    rfl
  have hhalf : 2 ^ 1 * Nat.card { data : Word // parity64 (data &&& k) = true } = 2 ^ 64 := by
    simpa only [BitVec.ofBool_eq_iff_eq] using (xorLinear_parity64_and k).card_fiber_mul hsurj (BitVec.ofBool true)
  omega

/-! ### The Hamming Encoder (R54) -/

theorem coverageBit_xor (j : Fin 6) (a b : Word) (m : MaskTable) :
    coverageBit j (a ^^^ b) m = (coverageBit j a m ^^ coverageBit j b m) :=
  parity64_and_xor a b m[j]

/-- Hamming bit `j` below 6 is the parity under `MASK[j]` (R54). -/
theorem getLsbD_hamming7 (data : Word) (m : MaskTable) (j : Fin 6) :
    (hamming7 data m).getLsbD j.val = coverageBit j data m := by
  simp only [hamming7, BitVec.getLsbD_append]
  fin_cases j <;> simp

/-- A Hamming field is its six coverage bits and its raw bit. -/
theorem hamming_ext {x y : Hamming} (hcoverage : ∀ j : Fin 6, x.getLsbD j.val = y.getLsbD j.val)
    (hraw : x.getLsbD 6 = y.getLsbD 6) : x = y := by
  apply BitVec.eq_of_getLsbD_eq
  intro j hj
  rcases Nat.lt_succ_iff_lt_or_eq.mp hj with h | rfl
  · exact hcoverage ⟨j, h⟩
  · exact hraw

theorem hamming7_xor (a b : Word) (m : MaskTable) : hamming7 (a ^^^ b) m = hamming7 a m ^^^ hamming7 b m := by
  refine hamming_ext (fun j => ?_) ?_
  · simp only [BitVec.getLsbD_xor, getLsbD_hamming7, coverageBit_xor]
  · simp only [BitVec.getLsbD_xor, getLsbD_hamming7_six]

theorem xorLinear_hamming7 (m : MaskTable) : XorLinear fun data => hamming7 data m := fun a b => hamming7_xor a b m

/-- Bit `k` of a column says whether `MASK[k]` has the column's bit (R61). -/
theorem getLsbD_column (i : Fin 64) (m : MaskTable) (k : Fin 6) : (column i m).getLsbD k.val = m[k].getLsbD i.val := by
  rw [column, getLsbD_hamming7]
  exact parity64_oneBit_and i m[k]

theorem column_top : column 63 = 0x40#7 := by
  decide

/-- The columns below 63 in closed form (R58). -/
theorem column_eq_not {i : Fin 64} (hi : i.val < 63) : column i = (~~~ (BitVec.ofNat 6 i.val)).setWidth 7 := by
  refine hamming_ext (fun k => ?_) ?_
  · have hk : k.val < 7 := by omega
    rw [getLsbD_column, getLsbD_maskTable_eq_not, BitVec.getLsbD_setWidth, decide_eq_true hk, Bool.true_and]
  · have hne : i.val ≠ 63 := Nat.ne_of_lt hi
    rw [column, getLsbD_hamming7_six, oneBit, getLsbD_oneBit, decide_eq_false hne, BitVec.getLsbD_setWidth,
      BitVec.getLsbD_of_ge (~~~ (BitVec.ofNat 6 i.val)) 6 (Nat.le_refl 6), Bool.and_false]

theorem not_index_eq_sub : ∀ i : Fin 64, (~~~ (BitVec.ofNat 6 i.val)).setWidth 7 = BitVec.ofNat 7 (63 - i.val) := by
  decide

/-- The columns are distinct: each holds its bit's membership in the masks. -/
theorem column_injective {i j : Fin 64} (h : column i = column j) : i = j := by
  refine eq_of_maskTable_membership_eq fun k => ?_
  rw [← getLsbD_column, ← getLsbD_column, h]

theorem column_ne_zero (i : Fin 64) : column i ≠ 0#7 := by
  intro h
  rcases Nat.lt_or_ge i.val 63 with hi | hi
  · obtain ⟨k, hk⟩ := exists_mask_of_lt_top hi
    rw [← getLsbD_column, h, BitVec.getLsbD_zero] at hk
    exact Bool.false_ne_true hk
  · obtain rfl : i = 63 := by omega
    exact absurd (column_top.symm.trans h) (by decide)

/-- Settles O9: bit by bit; column 63, which a change of `data[63]` adds, has no coverage bit. -/
theorem hammingBitsAreTheCoverageParities : Obligations.HammingBitsAreTheCoverageParities := by
  unfold Obligations.HammingBitsAreTheCoverageParities
  refine ⟨fun data => ⟨getLsbD_hamming7 data maskTable, getLsbD_hamming7_six data maskTable, ?_⟩,
    by decide, by decide, by decide, by decide⟩
  have htop : (hamming7 (1#64 <<< 63)).extractLsb' 0 6 = 0#6 := by decide
  rw [hamming7_xor, BitVec.extractLsb'_xor, htop, BitVec.xor_zero]

/-- Settles O11: the loop under `MASK[j]` runs over the places the mask has, which are the indices with bit `j` clear. -/
theorem hammingBitsInClosedForm : Obligations.HammingBitsInClosedForm := by
  unfold Obligations.HammingBitsInClosedForm
  refine fun data => ⟨fun j => ?_, getLsbD_hamming7_six data maskTable⟩
  have hplaces : (List.range 64).filter maskTable[j].getLsbD = (List.range 63).filter fun i => !i.testBit j.val := by
    rw [List.range_succ, List.filter_append, List.filter_singleton, maskTable_excludes_top]
    refine (List.append_nil _).trans (List.filter_congr fun i hi => ?_)
    exact getLsbD_maskTable j ⟨i, by have := List.mem_range.mp hi; omega⟩
  rw [getLsbD_hamming7, coverageBit, parity64_eq_parityLoop, parityLoop_and, hplaces]

/-! ### The SECDED Composer (R55) -/

theorem globalParity_xor (a b : Word) (g h : Hamming) :
    globalParity (a ^^^ b) (g ^^^ h) = (globalParity a g ^^ globalParity b h) := by
  simp only [globalParity, BitVec.setWidth_xor, parity64_xor, Bool.xor_assoc, Bool.xor_left_comm (parity64 b)]

theorem secdedEncode_xor (a b : Word) (m : MaskTable) :
    secdedEncode (a ^^^ b) m = secdedEncode a m ^^^ secdedEncode b m := by
  rw [secdedEncode, hamming7_xor, globalParity_xor, ← BitVec.ofBool_xor_ofBool]
  exact BitVec.xor_append.symm

theorem xorLinear_secdedEncode (m : MaskTable) : XorLinear fun data => secdedEncode data m :=
  fun a b => secdedEncode_xor a b m

/-- Settles O12: each of the three from the ones it is made of. -/
theorem encodingIsLinearOverXor : Obligations.EncodingIsLinearOverXor :=
  ⟨fun a b => ⟨parity64_xor a b, hamming7_xor a b maskTable, secdedEncode_xor a b maskTable⟩,
    parity64_zero, (xorLinear_hamming7 maskTable).map_zero, (xorLinear_secdedEncode maskTable).map_zero⟩

theorem secdedEncode_oneBit (i : Fin 64) (m : MaskTable) :
    secdedEncode (1#64 <<< i.val) m = column i m ++ BitVec.ofBool (true ^^ parity64 ((column i m).setWidth 64)) := by
  rw [secdedEncode, globalParity, parity64_oneBit, column, oneBit]

/-- Settles O13: the columns bit by bit from the mask table, the two sums by linearity (`XorLinear.eq_xorOverBits`). -/
theorem columnsOfThePayloadBits : Obligations.ColumnsOfThePayloadBits := by
  unfold Obligations.ColumnsOfThePayloadBits
  exact ⟨fun i hi => ⟨(column_eq_not hi).trans (not_index_eq_sub i), column_eq_not hi⟩, column_top, column_ne_zero,
    fun i j => column_injective, fun i k => (getLsbD_column i maskTable k).symm,
    (xorLinear_hamming7 maskTable).eq_xorOverBits, (xorLinear_secdedEncode maskTable).eq_xorOverBits,
    fun i => secdedEncode_oneBit i maskTable, by decide, by decide, by decide, by decide, by decide, by decide, by decide⟩

/-- The code has the parity of the word: the Hamming field's parity occurs in the global parity too and cancels (R59). -/
theorem popcountOdd_secdedEncode (data : Word) (m : MaskTable) : popcountOdd (secdedEncode data m) = parity64 data := by
  rw [secdedEncode, popcountOdd_append, popcountOdd_ofBool, globalParity, parity64_setWidth (by decide),
    Bool.xor_left_comm, Bool.xor_self, Bool.xor_false]

/-- Settles O14, by `popcountOdd_secdedEncode`. -/
theorem codeParityEqualsDataParity : Obligations.CodeParityEqualsDataParity := by
  unfold Obligations.CodeParityEqualsDataParity
  intro data
  have hparity := popcountOdd_secdedEncode data maskTable
  refine ⟨hparity, ?_⟩
  rw [parity64_eq_popcountOdd, popcountOdd, popcountOdd, decide_eq_decide] at hparity
  omega

/-- Settles O6: the response is `secdedEncode data`, by `execEncode_eq`; the rule's values are seven codes. -/
theorem encodeReturnsTheSecdedCode : Obligations.EncodeReturnsTheSecdedCode := by
  unfold Obligations.EncodeReturnsTheSecdedCode
  refine ⟨fun data unused s => ⟨secdedEncode data, execEncode_eq data unused s, BitVec.extractLsb'_append_eq_left,
    getLsbD_secdedEncode_zero data maskTable⟩, fun x hx unused s => ?_⟩
  have hcode : secdedEncode x.1 = x.2 := by
    revert x
    simp only [List.forall_mem_cons, List.not_mem_nil, false_implies, implies_true]
    decide
  rw [← hcode]
  exact execEncode_eq x.1 unused s

/-! ### Which words have a code (R62) -/

/-- A word whose code is code bit `b` alone: the payload bit that is its twin (R79), and for code bit 0 a sum of R62's eight. -/
def wordOfCodeBit (b : Fin 8) : Word :=
  match twinOfCodeBit b with
  | some i => oneBit i
  | none => ([0, 31, 47, 55, 59, 61, 62] : List (Fin 64)).foldl (fun x i => x ^^^ oneBit i) 0#64

theorem secdedEncode_wordOfCodeBit : ∀ b : Fin 8, secdedEncode (wordOfCodeBit b) = 1#8 <<< b.val := by
  decide

theorem secdedEncode_surjective : Function.Surjective fun data => secdedEncode data :=
  (xorLinear_secdedEncode maskTable).surjective secdedEncode_wordOfCodeBit

/-- R62's eight codes are linearly independent: of the 256 choices among them, only the empty one sums to 0. -/
theorem eq_zero_of_xorOverBits_codes : ∀ choice : Code,
    xorOverBits choice (fun k => (#v[0x02#8, 0x04#8, 0x08#8, 0x10#8, 0x20#8, 0x40#8, 0x80#8, 0x7F#8] : Vector Code 8)[k]) = 0#8 →
      choice = 0#8 := by
  decide

/-- Settles O15: ENCODE is linear and gives each code bit alone, so it is onto, and its 2^8 values share the 2^64 words equally. -/
theorem everyCodeValueIsTheCodeOfManyWords : Obligations.EveryCodeValueIsTheCodeOfManyWords := by
  unfold Obligations.EveryCodeValueIsTheCodeOfManyWords
  refine ⟨⟨by decide, fun chosen h => ?_⟩, secdedEncode_surjective, fun code => ?_⟩
  · have hnone := eq_zero_of_xorOverBits_codes (BitVec.ofFnLE chosen) (by simpa [xorOverBits] using h)
    intro k
    simpa using congrArg (fun c : Code => c.getLsbD k.val) hnone
  · have hshare : 2 ^ 8 * Nat.card { data // secdedEncode data = code } = 2 ^ 64 :=
      (xorLinear_secdedEncode maskTable).card_fiber_mul secdedEncode_surjective code
    omega

/-! ### Hamming bit 6 is no other parity (R65) -/

theorem hamming7_eq_append (data : Word) :
    BitVec.ofBool (data.getLsbD 63) ++ (hamming7 data).extractLsb' 0 6 = hamming7 data := by
  refine hamming_ext (fun j => ?_) ?_
  · rw [BitVec.getLsbD_append, if_pos j.isLt, BitVec.getLsbD_extractLsb']
    simp
  · rw [getLsbD_hamming7_six, BitVec.getLsbD_append]
    simp

/-- Another parity in place of bit 6 changes the code exactly where it differs from `data[63]`. -/
theorem encodeWithParityBitSix_ne_iff (k data : Word) :
    encodeWithParityBitSix k data ≠ secdedEncode data ↔ parity64 (data &&& k) ≠ data.getLsbD 63 := by
  refine not_congr ⟨fun h => ?_, fun h => ?_⟩
  · have hbit := congrArg (fun code : Code => code.getLsbD 7) h
    simp only [encodeWithParityBitSix, getLsbD_secdedEncode_succ data maskTable 6, getLsbD_hamming7_six] at hbit
    rw [← hbit, BitVec.getLsbD_append, BitVec.getLsbD_append]
    simp
  · simp only [encodeWithParityBitSix, h, hamming7_eq_append]
    rfl

/-- Settles O16: the two parities differ where the parity under `k XOR (1 << 63)` is 1, and that mask is not 0. -/
theorem rawBitSixIsNoOtherParity : Obligations.RawBitSixIsNoOtherParity := by
  unfold Obligations.RawBitSixIsNoOtherParity
  refine ⟨fun data => getLsbD_hamming7_six data maskTable, fun k hk => ?_⟩
  have hmask : k ^^^ 0x8000000000000000#64 ≠ 0#64 := fun h => hk (BitVec.xor_eq_zero_iff.mp h)
  rw [← card_parity64_and hmask]
  refine Nat.card_congr (Equiv.subtypeEquivRight fun data => (encodeWithParityBitSix_ne_iff k data).trans ?_)
  have htop : parity64 (0x8000000000000000#64 &&& data) = data.getLsbD 63 := parity64_oneBit_and 63 data
  rw [BitVec.and_comm data (k ^^^ _), parity64_and_xor, htop, BitVec.and_comm k]
  simp

end Sys2Proof.Machine

/-! PROOFS. The verify family (41_verify_and_correct.md): the syndrome, the overall parity check and LOCATE; the outcomes of VERIFY; and
what one, two and more bit errors give. -/

namespace Sys2Proof.Machine

/-! ### The syndrome (R67) -/

/-- The stored Hamming field as R43's shift. -/
theorem storedHamming_eq_shift (code : Code) : storedHamming code = (code >>> 1).setWidth 7 :=
  BitVec.setWidth_ushiftRight_eq_extractLsb.symm

theorem getLsbD_storedHamming (code : Code) (j : Fin 7) : (storedHamming code).getLsbD j.val = code.getLsbD (j.val + 1) := by
  simp [storedHamming, Nat.add_comm]

theorem storedHamming_xor (a b : Code) : storedHamming (a ^^^ b) = storedHamming a ^^^ storedHamming b :=
  BitVec.extractLsb'_xor

theorem storedHamming_secdedEncode (data : Word) (m : MaskTable) : storedHamming (secdedEncode data m) = hamming7 data m :=
  BitVec.extractLsb'_append_eq_left

/-- Syndrome bit `j` says that the recomputed and the stored Hamming bit `j` differ (R67). -/
theorem getLsbD_syndrome (data : Word) (code : Code) (m : MaskTable) (j : Fin 7) :
    (syndrome data code m).getLsbD j.val = ((hamming7 data m).getLsbD j.val != code.getLsbD (j.val + 1)) := by
  rw [syndrome, BitVec.getLsbD_xor, getLsbD_storedHamming, Bool.bne_eq_xor]

/-- The syndrome is 0 exactly when no Hamming bit disagrees (R44). -/
theorem syndrome_eq_zero_iff (data : Word) (code : Code) (m : MaskTable) :
    syndrome data code m = 0#7 ↔ ∀ j : Fin 7, (hamming7 data m).getLsbD j.val = code.getLsbD (j.val + 1) := by
  simp only [← getLsbD_storedHamming]
  rw [syndrome, BitVec.xor_eq_zero_iff]
  exact ⟨fun h j => by rw [h], fun h => BitVec.eq_of_getLsbD_eq fun j hj => h ⟨j, hj⟩⟩

/-- Settles O20: bit by bit (`getLsbD_syndrome`); bits 0..5 are coverage parities, and bit 6 is the raw bit. -/
theorem syndromeBitsAreTheDisagreements : Obligations.SyndromeBitsAreTheDisagreements := by
  unfold Obligations.SyndromeBitsAreTheDisagreements
  refine fun data code => ⟨?_, fun j => ?_, ?_, syndrome_eq_zero_iff data code maskTable⟩
  · rw [syndrome, storedHamming_eq_shift]
  · rw [← coverageBit, ← getLsbD_hamming7]
    exact getLsbD_syndrome data code maskTable (j.castLE (by decide))
  · rw [← getLsbD_hamming7_six data maskTable]
    exact getLsbD_syndrome data code maskTable 6

/-! ### The overall parity check (R68) and the comparison of the codes (R69) -/

theorem overallParity_eq_popcountOdd (data : Word) (code : Code) (m : MaskTable) :
    overallParity data code m = popcountOdd (secdedEncode data m ^^^ code) :=
  parity64_setWidth (by decide) _

/-- The second form of `q`: the parity of all the bits received. -/
theorem overallParity_eq_parity64 (data : Word) (code : Code) (m : MaskTable) :
    overallParity data code m = (parity64 data ^^ parity64 (code.setWidth 64)) := by
  rw [overallParity, BitVec.setWidth_xor, parity64_xor, parity64_setWidth (by decide), popcountOdd_secdedEncode]

/-- Settles O21: the definition, its count of set bits, and the second form. -/
theorem overallParityHasTwoForms : Obligations.OverallParityHasTwoForms :=
  fun data code => ⟨rfl, overallParity_eq_popcountOdd data code maskTable, overallParity_eq_parity64 data code maskTable⟩

/-- R69: the codes differ in the syndrome, above, and in the parity bits, below. -/
theorem secdedEncode_xor_code (data : Word) (code : Code) (m : MaskTable) :
    secdedEncode data m ^^^ code =
      syndrome data code m ++ BitVec.ofBool ((secdedEncode data m).getLsbD 0 ^^ code.getLsbD 0) := by
  calc
    secdedEncode data m ^^^ code
    _ = (hamming7 data m ++ BitVec.ofBool (globalParity data (hamming7 data m))) ^^^
        (storedHamming code ++ BitVec.ofBool (storedParity code)) := by rw [storedFields_append, secdedEncode]
    _ = syndrome data code m ++ BitVec.ofBool (globalParity data (hamming7 data m) ^^ storedParity code) := by
      rw [BitVec.xor_append, BitVec.ofBool_xor_ofBool, syndrome]
    _ = syndrome data code m ++ BitVec.ofBool ((secdedEncode data m).getLsbD 0 ^^ code.getLsbD 0) := by
      rw [getLsbD_secdedEncode_zero, storedParity]

/-- Where no check disagrees, the codes differ in bit 0 alone, and `q` says whether they do (R69). -/
theorem secdedEncode_xor_code_of_syndrome_zero {data : Word} {code : Code} {m : MaskTable} (hs : syndrome data code m = 0#7) :
    secdedEncode data m ^^^ code = 0#7 ++ BitVec.ofBool (overallParity data code m) := by
  have hzero : popcountOdd 0#7 = false := by decide
  rw [overallParity_eq_popcountOdd, secdedEncode_xor_code, hs, popcountOdd_append, popcountOdd_ofBool, hzero, Bool.false_xor]

theorem syndrome_of_code_eq {data : Word} {code : Code} {m : MaskTable} (h : secdedEncode data m = code) :
    syndrome data code m = 0#7 := by
  rw [syndrome, ← h, storedHamming_secdedEncode, BitVec.xor_self]

/-- The codes are equal exactly when the syndrome and `q` are 0 (R69). -/
theorem secdedEncode_eq_iff (data : Word) (code : Code) (m : MaskTable) :
    secdedEncode data m = code ↔ syndrome data code m = 0#7 ∧ overallParity data code m = false := by
  have hlow : ∀ q : Bool, 0#7 ++ BitVec.ofBool q = 0#8 ↔ q = false := by decide
  have hparity (hs : syndrome data code m = 0#7) : secdedEncode data m = code ↔ overallParity data code m = false := by
    rw [← BitVec.xor_eq_zero_iff, secdedEncode_xor_code_of_syndrome_zero hs, hlow]
  exact ⟨fun h => ⟨syndrome_of_code_eq h, (hparity (syndrome_of_code_eq h)).mp h⟩, fun ⟨hs, hq⟩ => (hparity hs).mpr hq⟩

/-- Settles O22, by `secdedEncode_xor_code` and `secdedEncode_eq_iff`. -/
theorem syndromeAndParityDecideCodeEquality : Obligations.SyndromeAndParityDecideCodeEquality := by
  unfold Obligations.SyndromeAndParityDecideCodeEquality
  intro data code
  have hiff := secdedEncode_eq_iff data code maskTable
  refine ⟨secdedEncode_xor_code data code maskTable, fun hs => ?_, fun hs h => hs (syndrome_of_code_eq h), ?_⟩
  · rw [hiff, and_iff_right hs]
  · rw [hiff, and_self_left]

/-! ### LOCATE (R70, R71) -/

/-- The check of a mask table says that the columns are non-zero and distinct. -/
theorem maskTableOk_iff (m : MaskTable) :
    maskTableOk m = true ↔ (∀ i, column i m ≠ 0#7) ∧ Function.Injective fun i => column i m := by
  simp only [maskTableOk, List.all_eq_true, List.mem_finRange, true_implies, Bool.and_eq_true, bne_iff_ne, Bool.or_eq_true,
    beq_iff_eq, forall_and]
  refine and_congr_right fun _ => forall₂_congr fun i j => ?_
  rw [or_comm, ne_eq, ← imp_iff_not_or]

theorem maskTableOk_maskTable : maskTableOk maskTable = true :=
  (maskTableOk_iff maskTable).mpr ⟨column_ne_zero, fun _ _ => column_injective⟩

theorem locate_eq_none_iff (s : Syndrome) (m : MaskTable) : locate s m = none ↔ ∀ i, column i m ≠ s := by
  simp [locate]

/-- LOCATE's search meets only one column that is the syndrome, when the columns are distinct. -/
theorem locate_eq_some_iff {m : MaskTable} (hm : maskTableOk m = true) (s : Syndrome) (i : Fin 64) :
    locate s m = some i ↔ column i m = s := by
  obtain ⟨-, hinjective⟩ := (maskTableOk_iff m).mp hm
  refine ⟨column_of_locate, fun hi => ?_⟩
  cases h : locate s m with
  | none => exact absurd hi (column_ne_of_locate_none h i)
  | some j => rw [hinjective ((column_of_locate h).trans hi.symm)]

/-- Settles O23, by `locate_eq_some_iff` and `locate_eq_none_iff`. -/
theorem locateInvertsTheColumns : Obligations.LocateInvertsTheColumns :=
  ⟨maskTableOk_maskTable, fun m hm s => ⟨locate_eq_some_iff hm s, locate_eq_none_iff s m⟩⟩

theorem locate_column (i : Fin 64) : locate (column i) = some i :=
  (locate_eq_some_iff maskTableOk_maskTable _ i).mpr rfl

theorem locate_zero : locate 0#7 = none :=
  (locate_eq_none_iff 0#7 maskTable).mpr column_ne_zero

/-- The hardware's columns below bit 63 are the syndromes 0x01..0x3F (R71). -/
theorem column_sub {s : Syndrome} (hlow : 0x01#7 ≤ s) (hhigh : s ≤ 0x3F#7) : column ⟨63 - s.toNat, by omega⟩ = s := by
  have hpos : 1 ≤ s.toNat := hlow
  have hle : s.toNat ≤ 63 := hhigh
  have hindex : 63 - (63 - s.toNat) = s.toNat := by omega
  rw [column_eq_not (i := ⟨63 - s.toNat, _⟩) (by simp only; omega), not_index_eq_sub, hindex, BitVec.ofNat_toNat,
    BitVec.setWidth_eq]

/-- No column of the hardware is above the column of bit 63 (R71). -/
theorem column_le_top (i : Fin 64) : column i ≤ 0x40#7 := by
  rcases Nat.lt_or_ge i.val 63 with hi | hi
  · rw [column_eq_not hi, not_index_eq_sub, BitVec.le_def, BitVec.toNat_ofNat]
    exact (Nat.mod_le _ _).trans (by simp only [BitVec.toNat_ofNat]; omega)
  · obtain rfl : i = 63 := by omega
    rw [column_top]
    exact BitVec.le_refl _

/-- The hardware's columns leave 0x00 and 0x41..0x7F over (R71). -/
theorem locate_eq_none_iff_range (s : Syndrome) : locate s = none ↔ s = 0#7 ∨ 0x41#7 ≤ s := by
  rw [locate_eq_none_iff]
  refine ⟨fun h => ?_, ?_⟩
  · by_contra! hrange
    obtain ⟨hne, hle⟩ := hrange
    rcases eq_or_ne s 0x40#7 with rfl | htop
    · exact h 63 column_top
    · exact h _ (column_sub (by bv_omega) (by bv_omega))
  · rintro (rfl | hs) i
    · exact column_ne_zero i
    · rintro rfl
      exact absurd (BitVec.le_trans hs (column_le_top i)) (by decide)

/-- Settles O24: `column_sub` and `column_top` are the columns, and `locate_eq_none_iff_range` says that there are no others. -/
theorem locateInClosedForm : Obligations.LocateInClosedForm := by
  unfold Obligations.LocateInClosedForm
  refine ⟨locate_zero, fun s hlow hhigh => ?_, ?_, fun s hs => (locate_eq_none_iff_range s).mpr (.inr hs)⟩
  · have hlocate := locate_column ⟨63 - s.toNat, by omega⟩
    rw [column_sub hlow hhigh] at hlocate
    rw [hlocate, Option.map_some]
  · rw [← column_top, locate_column]

/-! ### The outcomes of VERIFY (R72) -/

section Outcomes

variable {data : Word} {code : Code} {m : MaskTable}

/-- VERIFY's transaction, by its outcome (R40, R73). -/
theorem exec_verify_of_outcome {o : VerifyOutcome} (h : verifyAndCorrect data code = o) (s : State) :
    exec (.verify data code) s =
      .next { s with
        decData := data, decCode := code
        responses := s.responses ++ [.verdict (o.dataOut data ++ o.status)] } := by
  rw [← h]
  exact execVerify_eq data code s

theorem verifyAndCorrect_of_locate {i : Fin 64} (hi : locate (syndrome data code m) m = some i)
    (hs : syndrome data code m ≠ 0#7) (hq : overallParity data code m = true) :
    verifyAndCorrect data code m = .corrected (data ^^^ oneBit i) := by
  rw [verifyAndCorrect_of_odd hs hq, correctAt, hi]

theorem verifyAndCorrect_of_locate_none (hnone : locate (syndrome data code m) m = none)
    (hs : syndrome data code m ≠ 0#7) (hq : overallParity data code m = true) :
    verifyAndCorrect data code m = .uncorrectable := by
  rw [verifyAndCorrect_of_odd hs hq, correctAt, hnone]

/-- On a table whose columns are distinct, the bit whose column is the syndrome is flipped. -/
theorem verifyAndCorrect_of_column (hm : maskTableOk m = true) {i : Fin 64} (hs : syndrome data code m = column i m)
    (hq : overallParity data code m = true) : verifyAndCorrect data code m = .corrected (data ^^^ oneBit i) := by
  obtain ⟨hne, -⟩ := (maskTableOk_iff m).mp hm
  exact verifyAndCorrect_of_locate ((locate_eq_some_iff hm _ i).mpr hs.symm) (hs ▸ hne i) hq

/-- R72's branches: what VERIFY gives, and where. -/
theorem verifyAndCorrect_cases (data : Word) (code : Code) (m : MaskTable) :
    (syndrome data code m = 0#7 ∧ overallParity data code m = false ∧ verifyAndCorrect data code m = .clean) ∨
    (syndrome data code m = 0#7 ∧ overallParity data code m = true ∧ verifyAndCorrect data code m = .corrected data) ∨
    (syndrome data code m ≠ 0#7 ∧ (overallParity data code m = true → locate (syndrome data code m) m = none) ∧
      verifyAndCorrect data code m = .uncorrectable) ∨
    ∃ i, syndrome data code m ≠ 0#7 ∧ overallParity data code m = true ∧ locate (syndrome data code m) m = some i ∧
      verifyAndCorrect data code m = .corrected (data ^^^ oneBit i) := by
  by_cases hs : syndrome data code m = 0#7
  · cases hq : overallParity data code m with
    | false => exact .inl ⟨hs, rfl, verifyAndCorrect_of_match hs hq⟩
    | true => exact .inr (.inl ⟨hs, rfl, verifyAndCorrect_of_codeBitZero hs hq⟩)
  · cases hq : overallParity data code m with
    | false => exact .inr (.inr (.inl ⟨hs, by simp, verifyAndCorrect_of_even hs hq⟩))
    | true =>
      cases hi : locate (syndrome data code m) m with
      | none => exact .inr (.inr (.inl ⟨hs, fun _ => rfl, verifyAndCorrect_of_locate_none hi hs hq⟩))
      | some i => exact .inr (.inr (.inr ⟨i, hs, rfl, rfl, verifyAndCorrect_of_locate hi hs hq⟩))

theorem verifyAndCorrect_eq_clean_iff :
    verifyAndCorrect data code m = .clean ↔ syndrome data code m = 0#7 ∧ overallParity data code m = false := by
  obtain ⟨hs, hq, hv⟩ | ⟨-, hq, hv⟩ | ⟨hs, -, hv⟩ | ⟨i, hs, -, -, hv⟩ := verifyAndCorrect_cases data code m
  · simp [hs, hq, hv]
  · simp [hq, hv]
  · simp [hs, hv]
  · simp [hs, hv]

theorem verifyAndCorrect_eq_uncorrectable_iff :
    verifyAndCorrect data code m = .uncorrectable ↔
      syndrome data code m ≠ 0#7 ∧ (overallParity data code m = true → locate (syndrome data code m) m = none) := by
  obtain ⟨hs, -, hv⟩ | ⟨hs, -, hv⟩ | ⟨hs, hq, hv⟩ | ⟨i, -, hq, hi, hv⟩ := verifyAndCorrect_cases data code m
  · simp [hs, hv]
  · simp [hs, hv]
  · exact iff_of_true hv ⟨hs, hq⟩
  · simp [hq, hi, hv]

end Outcomes

/-! ### Bit errors in a received pair (R77 to R81) -/

theorem xor_oneBit_ne (d : Word) (i : Fin 64) : d ^^^ oneBit i ≠ d := by
  have hne : ∀ i : Fin 64, oneBit i ≠ 0#64 := by decide
  intro h
  exact hne i (by simpa using congrArg (d ^^^ ·) h)

theorem xor_xor_cancel {n : Nat} (x y z : BitVec n) : x ^^^ y ^^^ (x ^^^ z) = y ^^^ z := by
  rw [BitVec.xor_comm x y, BitVec.xor_assoc, xor_cancel_left]

/-- The syndrome of a codeword with errors is that of the errors alone. -/
theorem syndrome_of_errors (d a : Word) (c : Code) (m : MaskTable) :
    syndrome (d ^^^ a) (secdedEncode d m ^^^ c) m = hamming7 a m ^^^ storedHamming c := by
  rw [syndrome, hamming7_xor, storedHamming_xor, storedHamming_secdedEncode, xor_xor_cancel]

/-- The overall parity check of a codeword with errors is the parity of the errors. -/
theorem overallParity_of_errors (d a : Word) (c : Code) (m : MaskTable) :
    overallParity (d ^^^ a) (secdedEncode d m ^^^ c) m = (parity64 a ^^ parity64 (c.setWidth 64)) := by
  rw [overallParity, secdedEncode_xor, xor_xor_cancel, ← overallParity, overallParity_eq_parity64]

theorem syndrome_of_payloadErrors (d a : Word) (m : MaskTable) :
    syndrome (d ^^^ a) (secdedEncode d m) m = hamming7 a m := by
  simpa [storedHamming] using syndrome_of_errors d a 0#8 m

theorem overallParity_of_payloadErrors (d a : Word) (m : MaskTable) :
    overallParity (d ^^^ a) (secdedEncode d m) m = parity64 a := by
  simpa [parity64_zero] using overallParity_of_errors d a 0#8 m

theorem syndrome_of_codeErrors (d : Word) (c : Code) (m : MaskTable) :
    syndrome d (secdedEncode d m ^^^ c) m = storedHamming c := by
  simpa [(xorLinear_hamming7 m).map_zero] using syndrome_of_errors d 0#64 c m

theorem overallParity_of_codeErrors (d : Word) (c : Code) (m : MaskTable) :
    overallParity d (secdedEncode d m ^^^ c) m = parity64 (c.setWidth 64) := by
  simpa [parity64_zero] using overallParity_of_errors d 0#64 c m

theorem verifyAndCorrect_secdedEncode (d : Word) (m : MaskTable) : verifyAndCorrect d (secdedEncode d m) m = .clean :=
  verifyAndCorrect_eq_clean_iff.mpr ((secdedEncode_eq_iff d _ m).mp rfl)

/-- One payload error: the syndrome is the column of its bit. -/
theorem verifyAndCorrect_of_payloadError {m : MaskTable} (hm : maskTableOk m = true) (d : Word) (i : Fin 64) :
    verifyAndCorrect (d ^^^ oneBit i) (secdedEncode d m) m = .corrected d := by
  have hq : overallParity (d ^^^ oneBit i) (secdedEncode d m) m = true := by
    rw [overallParity_of_payloadErrors, oneBit, parity64_oneBit]
  have hv := verifyAndCorrect_of_column hm (syndrome_of_payloadErrors d (oneBit i) m) hq
  rwa [xor_cancel_right] at hv

theorem syndrome_of_payloadErrorPair (d : Word) (i j : Fin 64) (m : MaskTable) :
    syndrome (d ^^^ oneBit i ^^^ oneBit j) (secdedEncode d m) m = column i m ^^^ column j m := by
  rw [BitVec.xor_assoc, syndrome_of_payloadErrors, hamming7_xor, column, column]

/-- Two payload errors: the columns differ, so the syndrome is not 0, and the parity is even. -/
theorem verifyAndCorrect_of_payloadErrorPair {m : MaskTable} (hm : maskTableOk m = true) (d : Word) {i j : Fin 64} (hij : i ≠ j) :
    verifyAndCorrect (d ^^^ oneBit i ^^^ oneBit j) (secdedEncode d m) m = .uncorrectable := by
  obtain ⟨-, hinjective⟩ := (maskTableOk_iff m).mp hm
  refine verifyAndCorrect_of_even ?_ ?_
  · rw [syndrome_of_payloadErrorPair, ne_eq, BitVec.xor_eq_zero_iff]
    exact fun h => hij (hinjective h)
  · rw [BitVec.xor_assoc, overallParity_of_payloadErrors, parity64_xor, oneBit, oneBit, parity64_oneBit, parity64_oneBit,
      Bool.xor_self]

/-- Settles O29: the code is the recomputed one. -/
theorem cleanRoundTrip : Obligations.CleanRoundTrip :=
  fun d s => ⟨verifyAndCorrect_secdedEncode d maskTable, exec_verify_of_outcome (verifyAndCorrect_secdedEncode d maskTable) s⟩

/-- Settles O30: the syndrome is the column of the flipped bit (`verifyAndCorrect_of_payloadError`). -/
theorem singlePayloadErrorsAreCorrected : Obligations.SinglePayloadErrorsAreCorrected := by
  unfold Obligations.SinglePayloadErrorsAreCorrected
  intro d i s
  have hv := verifyAndCorrect_of_payloadError maskTableOk_maskTable d i
  exact ⟨hv, exec_verify_of_outcome hv s⟩

/-- Settles O37: the three lemmas hold for every table with distinct, non-zero columns. -/
theorem anyTableOfDistinctColumnsCorrects : Obligations.AnyTableOfDistinctColumnsCorrects :=
  fun m hm d => ⟨verifyAndCorrect_secdedEncode d m, verifyAndCorrect_of_payloadError hm d,
    fun _ _ => verifyAndCorrect_of_payloadErrorPair hm d⟩

/-- Settles O28: with syndrome 0 the codes differ at most in bit 0, and do where `q` is 1 (R69). -/
theorem codeBitZeroMismatchKeepsTheWord : Obligations.CodeBitZeroMismatchKeepsTheWord := by
  unfold Obligations.CodeBitZeroMismatchKeepsTheWord
  refine fun data code => ⟨⟨fun ⟨hs, hq⟩ => ?_, ?_⟩, verifyAndCorrect_of_codeBitZero⟩
  · have hdiff : secdedEncode data ^^^ code = 0x01#8 := by
      rw [secdedEncode_xor_code_of_syndrome_zero hs, hq]
      decide
    rw [← hdiff, xor_cancel_left]
  · rintro rfl
    rw [syndrome_of_codeErrors, overallParity_of_codeErrors]
    decide

/-- Settles O33: three patterns of payload errors, by their syndromes 0x3C (column 3), 0x43 (no column) and 0x00. -/
theorem threeOrMoreErrorsPromiseNothing : Obligations.ThreeOrMoreErrorsPromiseNothing := by
  unfold Obligations.ThreeOrMoreErrorsPromiseNothing
  refine fun d => ⟨?_, verifyAndCorrect_eq_uncorrectable_iff.mpr ?_, verifyAndCorrect_eq_clean_iff.mpr ?_⟩
  · have hpattern : d ^^^ 0x000000000000000F#64 = d ^^^ 0x0000000000000007#64 ^^^ oneBit 3 := by
      rw [BitVec.xor_assoc]
      rfl
    rw [hpattern]
    refine verifyAndCorrect_of_column maskTableOk_maskTable ?_ ?_
    · rw [syndrome_of_payloadErrors]
      decide
    · rw [overallParity_of_payloadErrors]
      decide
  · rw [syndrome_of_payloadErrors, locate_eq_none_iff_range]
    exact ⟨by decide, fun _ => by decide⟩
  · rw [syndrome_of_payloadErrors, overallParity_of_payloadErrors]
    decide

/-! ### Single code-bit errors (R79) -/

/-- The syndrome that points to a payload bit, or to none. -/
def columnOf : Option (Fin 64) → Syndrome
  | none => 0#7
  | some i => column i

theorem locate_columnOf (o : Option (Fin 64)) : locate (columnOf o) = o := by
  cases o with
  | none => exact locate_zero
  | some i => exact locate_column i

theorem columnOf_injective : Function.Injective columnOf :=
  Function.LeftInverse.injective (g := fun s => locate s) locate_columnOf

/-- A flip of a code bit points to its twin among the payload bits (R79). -/
theorem storedHamming_codeBit : ∀ b : Fin 8, storedHamming (1#8 <<< b.val) = columnOf (twinOfCodeBit b) := by
  decide

theorem parity64_codeBit : ∀ b : Fin 8, parity64 ((1#8 <<< b.val).setWidth 64) = true := by
  decide

theorem syndrome_of_codeError (d : Word) (b : Fin 8) :
    syndrome d (secdedEncode d ^^^ 1#8 <<< b.val) = columnOf (twinOfCodeBit b) := by
  rw [syndrome_of_codeErrors, storedHamming_codeBit]

theorem overallParity_of_codeError (d : Word) (b : Fin 8) :
    overallParity d (secdedEncode d ^^^ 1#8 <<< b.val) = true := by
  rw [overallParity_of_codeErrors, parity64_codeBit]

/-- Every code bit but bit 0 has a twin. -/
theorem isSome_twinOfCodeBit : ∀ b : Fin 8, b ≠ 0 → (twinOfCodeBit b).isSome = true := by
  decide

/-- A flip of a code bit with a twin is taken for a flip of the twin (R79). -/
theorem verifyAndCorrect_of_codeError (d : Word) {b : Fin 8} {i : Fin 64} (hi : twinOfCodeBit b = some i) :
    verifyAndCorrect d (secdedEncode d ^^^ 1#8 <<< b.val) = .corrected (d ^^^ oneBit i) := by
  refine verifyAndCorrect_of_column maskTableOk_maskTable ?_ (overallParity_of_codeError d b)
  rw [syndrome_of_codeError, hi, columnOf]

/-- Settles O31: the parity is odd, and the syndrome is the column of the twin or, for code bit 0, 0. -/
theorem singleCodeErrorsAreMiscorrected : Obligations.SingleCodeErrorsAreMiscorrected := by
  unfold Obligations.SingleCodeErrorsAreMiscorrected
  intro d b c
  have hq : overallParity d c = true := overallParity_of_codeError d b
  have hs : syndrome d c = columnOf (twinOfCodeBit b) := syndrome_of_codeError d b
  refine ⟨hq, fun hclean => ?_, ?_, fun hb => ⟨?_, ?_⟩⟩
  · obtain ⟨-, heven⟩ := verifyAndCorrect_eq_clean_iff.mp hclean
    exact Bool.false_ne_true (heven.symm.trans hq)
  · rintro rfl
    exact ⟨hs, verifyAndCorrect_of_codeBitZero hs hq⟩
  · have hshift : ∀ b : Fin 8, b ≠ 0 → storedHamming (1#8 <<< b.val) = 1#7 <<< (b.val - 1) := by decide
    rw [hs, ← storedHamming_codeBit, hshift b hb]
  · obtain ⟨i, hi⟩ := Option.isSome_iff_exists.mp (isSome_twinOfCodeBit b hb)
    have hcolumn : syndrome d c = column i := by rw [hs, hi, columnOf]
    refine ⟨i, hi, hcolumn, verifyAndCorrect_of_codeError d hi, xor_oneBit_ne d i, ?_, ?_⟩
    · exact (syndrome_of_payloadErrors d (oneBit i) maskTable).trans hcolumn.symm
    · rw [hq, overallParity_of_payloadErrors, parity64_oneBit]

/-! ### Double errors (R80) -/

/-- The payload bit that a flip of one of the 72 bits points to: itself for a payload bit, the twin for a code bit. -/
def blamedBit (p : Fin 72) : Option (Fin 64) :=
  if h : p.val < 64 then some ⟨p.val, h⟩ else twinOfCodeBit ⟨p.val - 64, by omega⟩

theorem blamedBit_of_payload {p : Fin 72} {i : Fin 64} (hp : p.val = i.val) : blamedBit p = some i := by
  simp [blamedBit, hp]

theorem blamedBit_of_code {p : Fin 72} {b : Fin 8} (hp : p.val = 64 + b.val) : blamedBit p = twinOfCodeBit b := by
  simp [blamedBit, hp]

theorem flip_of_payload {p : Fin 72} {i : Fin 64} (hp : p.val = i.val) (x : Received) :
    x.flip p = ⟨x.data ^^^ oneBit i, x.code⟩ := by
  rw [Received.flip, hp, if_pos i.isLt, oneBit]

theorem flip_of_code {p : Fin 72} {b : Fin 8} (hp : p.val = 64 + b.val) (x : Received) :
    x.flip p = ⟨x.data, x.code ^^^ 1#8 <<< b.val⟩ := by
  rw [Received.flip, hp, if_neg (by omega), Nat.add_sub_cancel_left]

/-- One of the 72 bits is a payload bit or a code bit. -/
theorem payload_or_code (p : Fin 72) : (∃ i : Fin 64, p.val = i.val) ∨ ∃ b : Fin 8, p.val = 64 + b.val := by
  rcases Nat.lt_or_ge p.val 64 with hp | hp
  · exact .inl ⟨⟨p.val, hp⟩, rfl⟩
  · exact .inr ⟨⟨p.val - 64, by omega⟩, (Nat.add_sub_of_le hp).symm⟩

/-- A flip adds to the syndrome the column it points to. -/
theorem syndrome_flip (x : Received) (p : Fin 72) :
    syndrome (x.flip p).data (x.flip p).code = syndrome x.data x.code ^^^ columnOf (blamedBit p) := by
  obtain ⟨i, hp⟩ | ⟨b, hp⟩ := payload_or_code p
  · rw [flip_of_payload hp, blamedBit_of_payload hp, syndrome, syndrome, hamming7_xor, columnOf, column, BitVec.xor_assoc,
      BitVec.xor_comm (hamming7 (oneBit i)), ← BitVec.xor_assoc]
  · rw [flip_of_code hp, blamedBit_of_code hp, syndrome, syndrome, storedHamming_xor, storedHamming_codeBit, BitVec.xor_assoc]

/-- A flip changes the overall parity. -/
theorem overallParity_flip (x : Received) (p : Fin 72) :
    overallParity (x.flip p).data (x.flip p).code = !overallParity x.data x.code := by
  obtain ⟨i, hp⟩ | ⟨b, hp⟩ := payload_or_code p
  · rw [flip_of_payload hp, overallParity_eq_parity64, overallParity_eq_parity64, parity64_xor, oneBit, parity64_oneBit,
      Bool.xor_true, Bool.not_xor]
  · rw [flip_of_code hp, overallParity_eq_parity64, overallParity_eq_parity64, BitVec.setWidth_xor, parity64_xor,
      parity64_codeBit, Bool.xor_true, Bool.xor_not]

/-- Two flips leave the syndrome 0 exactly when they point to one payload bit. -/
theorem syndrome_flip_flip_eq_zero_iff (d : Word) (p q : Fin 72) :
    syndrome (((codewordOf d).flip p).flip q).data (((codewordOf d).flip p).flip q).code = 0#7 ↔ blamedBit p = blamedBit q := by
  have hzero : syndrome (codewordOf d).data (codewordOf d).code = 0#7 := syndrome_of_code_eq rfl
  rw [syndrome_flip, syndrome_flip, hzero, BitVec.zero_xor, BitVec.xor_eq_zero_iff, columnOf_injective.eq_iff]

theorem overallParity_flip_flip (d : Word) (p q : Fin 72) :
    overallParity (((codewordOf d).flip p).flip q).data (((codewordOf d).flip p).flip q).code = false := by
  have heven : overallParity (codewordOf d).data (codewordOf d).code = false := by
    obtain ⟨-, hq⟩ := (secdedEncode_eq_iff d _ maskTable).mp rfl
    exact hq
  rw [overallParity_flip, overallParity_flip, heven, Bool.not_not]

theorem twinOfCodeBit_injective : ∀ b c : Fin 8, twinOfCodeBit b = twinOfCodeBit c → b = c := by
  decide

/-- Two different bits that point to one payload bit are that bit and the code bit whose twin it is (R80). -/
theorem blamedBit_eq_iff_undetectable {p q : Fin 72} (hpq : p < q) : blamedBit p = blamedBit q ↔ Undetectable p q := by
  have hlt : p.val < q.val := hpq
  refine ⟨fun h => ?_, fun ⟨i, b, hi, hp, hq⟩ => ?_⟩
  · obtain ⟨i, hp⟩ | ⟨b, hp⟩ := payload_or_code p <;> obtain ⟨j, hq⟩ | ⟨c, hq⟩ := payload_or_code q
    · rw [blamedBit_of_payload hp, blamedBit_of_payload hq, Option.some.injEq] at h
      omega
    · rw [blamedBit_of_payload hp, blamedBit_of_code hq] at h
      exact ⟨i, c, h.symm, hp, hq⟩
    · omega
    · rw [blamedBit_of_code hp, blamedBit_of_code hq] at h
      have := twinOfCodeBit_injective b c h
      omega
  · rw [blamedBit_of_payload hp, blamedBit_of_code hq, hi]

theorem verify_flip_flip_of_undetectable (d : Word) {p q : Fin 72} (hpq : p < q) (h : Undetectable p q) :
    (((codewordOf d).flip p).flip q).verify = .clean :=
  verifyAndCorrect_eq_clean_iff.mpr
    ⟨(syndrome_flip_flip_eq_zero_iff d p q).mpr ((blamedBit_eq_iff_undetectable hpq).mpr h), overallParity_flip_flip d p q⟩

theorem verify_flip_flip_of_detectable (d : Word) {p q : Fin 72} (hpq : p < q) (h : ¬ Undetectable p q) :
    (((codewordOf d).flip p).flip q).verify = .uncorrectable :=
  verifyAndCorrect_of_even
    (fun hs => h ((blamedBit_eq_iff_undetectable hpq).mp ((syndrome_flip_flip_eq_zero_iff d p q).mp hs)))
    (overallParity_flip_flip d p q)

/-- A pair that VERIFY reports Clean is a codeword. -/
theorem eq_codewordOf_of_verify_clean {x : Received} (h : x.verify = .clean) : x = codewordOf x.data := by
  have hcode : secdedEncode x.data = x.code := (secdedEncode_eq_iff _ _ maskTable).mpr (verifyAndCorrect_eq_clean_iff.mp h)
  rw [codewordOf, hcode]

/-- An undetectable pair has a payload bit in it. -/
theorem data_flip_flip_ne_of_undetectable (d : Word) {p q : Fin 72} (h : Undetectable p q) :
    (((codewordOf d).flip p).flip q).data ≠ d := by
  obtain ⟨i, b, -, hp, hq⟩ := h
  rw [flip_of_payload hp, flip_of_code hq]
  exact xor_oneBit_ne d i

theorem lt_of_undetectable {p q : Fin 72} (h : Undetectable p q) : p < q := by
  obtain ⟨i, b, -, hp, hq⟩ := h
  rw [Fin.lt_def]
  omega

/-- Of two bits, VERIFY misses those that are undetectable, and no others. -/
theorem verify_flip_flip_eq_clean_iff (d : Word) {p q : Fin 72} (hpq : p < q) :
    (((codewordOf d).flip p).flip q).verify = .clean ↔ Undetectable p q := by
  refine ⟨fun hclean => ?_, verify_flip_flip_of_undetectable d hpq⟩
  by_contra h
  rw [verify_flip_flip_of_detectable d hpq h] at hclean
  cases hclean

/-- The undetectable pairs, by the code bit. -/
def undetectablePairs : List (Fin 72 × Fin 72) :=
  (List.finRange 8).filterMap fun b => (twinOfCodeBit b).map fun i => (i.castLE (by decide), b.natAdd 64)

theorem mem_undetectablePairs (e : Fin 72 × Fin 72) : e ∈ undetectablePairs ↔ Undetectable e.1 e.2 := by
  simp only [undetectablePairs, List.mem_filterMap, List.mem_finRange, true_and, Option.map_eq_some_iff, Prod.ext_iff, Fin.ext_iff,
    Fin.val_castLE, Fin.val_natAdd, Undetectable]
  rw [exists_comm]
  simp only [eq_comm]

/-- R80's seven pairs. -/
theorem undetectable_iff_mem (p q : Fin 72) : Undetectable p q ↔
    (p.val, q.val) ∈ ([(62, 65), (61, 66), (59, 67), (55, 68), (47, 69), (31, 70), (63, 71)] : List (Nat × Nat)) := by
  have hplaces : undetectablePairs.map (Prod.map Fin.val Fin.val) =
      [(62, 65), (61, 66), (59, 67), (55, 68), (47, 69), (31, 70), (63, 71)] := by decide
  have hinjective : Function.Injective (Prod.map Fin.val Fin.val : Fin 72 × Fin 72 → Nat × Nat) :=
    Fin.val_injective.prodMap Fin.val_injective
  rw [← hplaces, ← mem_undetectablePairs (p, q), ← List.mem_map_of_injective hinjective, Prod.map_apply]

theorem mem_bitPairs (e : Fin 72 × Fin 72) : e ∈ bitPairs ↔ e.1 < e.2 := by
  simp [bitPairs, Prod.ext_iff]

theorem nodup_bitPairs : bitPairs.Nodup := by
  refine List.nodup_flatMap.mpr ⟨fun p _ => ?_, (List.nodup_finRange 72).imp fun {p p'} hne => ?_⟩
  · exact ((List.nodup_finRange 72).filter _).map fun q q' h => (Prod.mk.inj h).2
  · simp only [Function.onFun, List.disjoint_left, List.mem_map]
    rintro e ⟨q, -, rfl⟩ ⟨q', -, h⟩
    exact hne (Prod.mk.inj h).1.symm

/-- Behind bit `p` of the 72 there are `71 - p` more. -/
theorem length_filter_gt (p : Fin 72) : ((List.finRange 72).filter fun q => p < q).length = 71 - p.val := by
  have h := Fin.card_Ioi p
  rw [← Finset.filter_lt_eq_Ioi] at h
  exact h

theorem length_bitPairs : bitPairs.length = 2556 := by
  simp only [bitPairs, List.length_flatMap, List.length_map, length_filter_gt]
  decide

theorem countP_clean_bitPairs (d : Word) :
    bitPairs.countP (fun e => ((codewordOf d).flip e.1 |>.flip e.2).verify == .clean) = 7 := by
  rw [List.countP_eq_length_filter]
  refine List.Perm.length_eq (l₂ := undetectablePairs) ?_
  refine (List.perm_ext_iff_of_nodup (nodup_bitPairs.filter _) (by decide)).mpr fun e => ?_
  rw [List.mem_filter, mem_bitPairs, mem_undetectablePairs, beq_iff_eq]
  exact ⟨fun ⟨hlt, hclean⟩ => (verify_flip_flip_eq_clean_iff d hlt).mp hclean,
    fun h => ⟨lt_of_undetectable h, verify_flip_flip_of_undetectable d (lt_of_undetectable h) h⟩⟩

/-- The pairs that are not Clean are Uncorrectable. -/
theorem countP_uncorrectable_bitPairs (d : Word) :
    bitPairs.countP (fun e => ((codewordOf d).flip e.1 |>.flip e.2).verify == .uncorrectable) = 2549 := by
  have hsplit := List.length_eq_countP_add_countP (fun e => ((codewordOf d).flip e.1 |>.flip e.2).verify == .clean) (l := bitPairs)
  have hrest : bitPairs.countP (fun e => decide ¬(((codewordOf d).flip e.1 |>.flip e.2).verify == .clean) = true) =
      bitPairs.countP (fun e => ((codewordOf d).flip e.1 |>.flip e.2).verify == .uncorrectable) := by
    refine List.countP_congr fun e he => ?_
    have hlt := (mem_bitPairs e).mp he
    rw [decide_eq_true_eq, beq_iff_eq, beq_iff_eq, verify_flip_flip_eq_clean_iff d hlt]
    refine ⟨verify_flip_flip_of_detectable d hlt, fun huncorrectable h => ?_⟩
    rw [verify_flip_flip_of_undetectable d hlt h] at huncorrectable
    cases huncorrectable
  rw [hrest, length_bitPairs, countP_clean_bitPairs] at hsplit
  omega

/-- Settles O32: two flips point to one payload bit exactly for the undetectable pairs (`blamedBit_eq_iff_undetectable`), and only then
is the syndrome 0; `q` is 0 for every two flips. -/
theorem doubleErrorsAreDetectedButSeven : Obligations.DoubleErrorsAreDetectedButSeven := by
  unfold Obligations.DoubleErrorsAreDetectedButSeven
  refine fun d => ⟨fun p q hpq => ⟨overallParity_flip_flip d p q, fun h => ?_, fun h => ?_⟩,
    fun i j _ => syndrome_of_payloadErrorPair d i j maskTable, fun i => ?_, undetectable_iff_mem, length_bitPairs,
    countP_clean_bitPairs d, countP_uncorrectable_bitPairs d⟩
  · have hclean := verify_flip_flip_of_undetectable d hpq h
    obtain ⟨hs, -⟩ := verifyAndCorrect_eq_clean_iff.mp hclean
    exact ⟨hs, hclean, data_flip_flip_ne_of_undetectable d h, eq_codewordOf_of_verify_clean hclean⟩
  · have huncorrectable := verify_flip_flip_of_detectable d hpq h
    obtain ⟨hs, -⟩ := verifyAndCorrect_eq_uncorrectable_iff.mp huncorrectable
    exact ⟨hs, huncorrectable⟩
  · have hbitZero : storedHamming 1#8 = 0#7 := by decide
    have hs := syndrome_of_errors d (oneBit i) 1#8 maskTable
    rwa [hbitZero, BitVec.xor_zero] at hs

/-! ### VERIFY's branches as responses (R72) -/

/-- A double error of a twin and its code bit cancels in the syndrome and in `q` (R80). -/
theorem verifyAndCorrect_of_twinErrors (d : Word) {b : Fin 8} {i : Fin 64} (hi : twinOfCodeBit b = some i) :
    verifyAndCorrect (d ^^^ oneBit i) (secdedEncode d ^^^ 1#8 <<< b.val) = .clean := by
  refine verifyAndCorrect_eq_clean_iff.mpr ⟨?_, ?_⟩
  · rw [syndrome_of_errors, storedHamming_codeBit, hi, columnOf, column, BitVec.xor_self]
  · rw [overallParity_of_errors, parity64_codeBit, oneBit, parity64_oneBit, Bool.xor_self]

/-- Settles O25: each branch by the lemma of `verifyAndCorrect` about it; the example is a flip of payload bit 0 of the base word. -/
theorem verifyReturnsTheOutcome : Obligations.VerifyReturnsTheOutcome := by
  unfold Obligations.VerifyReturnsTheOutcome
  refine ⟨fun data code s => ⟨_, execVerify_eq data code s, ?_⟩, fun d b hb => ?_,
    fun d b i => verifyAndCorrect_of_twinErrors d, fun s => ?_⟩
  · intro syn q
    have response (o : VerifyOutcome) (h : verifyAndCorrect data code = o) :
        packRsp ((verifyAndCorrect data code).dataOut data) (verifyAndCorrect data code).status = o.dataOut data ++ o.status :=
      h ▸ rfl
    refine ⟨fun hs hq => response .clean (verifyAndCorrect_of_match hs hq),
      fun hs hq => response (.corrected data) (verifyAndCorrect_of_codeBitZero hs hq),
      fun hs hq => response .uncorrectable (verifyAndCorrect_of_even hs hq),
      fun _ hq i hi => response (.corrected (data ^^^ oneBit i)) (verifyAndCorrect_of_column maskTableOk_maskTable hi.symm hq),
      fun hs hq hnone => response .uncorrectable (verifyAndCorrect_of_locate_none ((locate_eq_none_iff syn _).mpr hnone) hs hq),
      fun hs hq => ?_⟩
    have hne : syn ≠ 0#7 := fun h => absurd (h ▸ hs) (by decide)
    exact response .uncorrectable
      (verifyAndCorrect_of_locate_none ((locate_eq_none_iff_range syn).mpr (.inr hs)) hne hq)
  · obtain ⟨i, hi⟩ := Option.isSome_iff_exists.mp (isSome_twinOfCodeBit b hb)
    exact ⟨_, verifyAndCorrect_of_codeError d hi, xor_oneBit_ne d i⟩
  · have hflip : 0xDEADBEEFCAFEF00C#64 = 0xDEADBEEFCAFEF00D#64 ^^^ oneBit 0 := by decide
    have hcode : 0x8D#8 = secdedEncode 0xDEADBEEFCAFEF00D#64 := by decide
    have hv := verifyAndCorrect_of_payloadError maskTableOk_maskTable 0xDEADBEEFCAFEF00D#64 0
    rw [← hflip, ← hcode] at hv
    exact exec_verify_of_outcome hv s

/-! ### The outcomes over all codes (R82) -/

theorem mem_allCodes (c : Code) : c ∈ allCodes :=
  List.mem_map.mpr ⟨c.toNat, List.mem_range.mpr c.isLt, BitVec.ofNat_toNat 8 c⟩

theorem nodup_allCodes : allCodes.Nodup := by
  refine (List.nodup_map_iff_inj_on List.nodup_range).mpr fun a ha b hb h => ?_
  have hmod : a % 256 = b % 256 := congrArg BitVec.toNat h
  rwa [Nat.mod_eq_of_lt (List.mem_range.mp ha), Nat.mod_eq_of_lt (List.mem_range.mp hb)] at hmod

/-- XOR with a code permutes the codes. -/
theorem allCodes_perm_map_xor (x : Code) : allCodes.Perm (allCodes.map (x ^^^ ·)) := by
  have hinjective : Function.Injective (x ^^^ · : Code → Code) := fun a b h => (BitVec.xor_right_inj x).mp h
  refine (List.perm_ext_iff_of_nodup nodup_allCodes (nodup_allCodes.map hinjective)).mpr fun c => ?_
  exact iff_of_true (mem_allCodes c) (List.mem_map.mpr ⟨x ^^^ c, mem_allCodes _, xor_cancel_left x c⟩)

/-- What the syndrome and `q` decide holds for as many codes of any word as there are error patterns in the code for which it does. -/
theorem countP_allCodes {n : Nat} {p : Code → Bool} {d : Word} (P : Syndrome → Bool → Prop) [∀ s q, Decidable (P s q)]
    (hcount : allCodes.countP (fun e => decide (P (storedHamming e) (parity64 (e.setWidth 64)))) = n)
    (h : ∀ c, p c = true ↔ P (syndrome d c) (overallParity d c)) : allCodes.countP p = n := by
  rw [(allCodes_perm_map_xor (secdedEncode d)).countP_eq, List.countP_map, ← hcount]
  refine List.countP_congr fun e _ => ?_
  rw [Function.comp_apply, h, syndrome_of_codeErrors, overallParity_of_codeErrors, decide_eq_true_eq]

/-- Of the odd syndromes that are not 0, those above 0x40 are no column (R71, R72). -/
theorem verifyAndCorrect_eq_uncorrectable_iff_range {data : Word} {code : Code} :
    verifyAndCorrect data code = .uncorrectable ↔
      syndrome data code ≠ 0#7 ∧ (overallParity data code = true → 0x41#7 ≤ syndrome data code) := by
  rw [verifyAndCorrect_eq_uncorrectable_iff, locate_eq_none_iff_range]
  exact and_congr_right fun hs => imp_congr_right fun _ => or_iff_right hs

/-- The odd syndromes that are a column make VERIFY flip a bit. -/
theorem exists_verifyAndCorrect_eq_flipped_iff {data : Word} {code : Code} :
    (∃ i, verifyAndCorrect data code = .corrected (data ^^^ oneBit i)) ↔
      syndrome data code ≠ 0#7 ∧ overallParity data code = true ∧ ¬ 0x41#7 ≤ syndrome data code := by
  have hne : ∀ i, data ≠ data ^^^ oneBit i := fun i => (xor_oneBit_ne data i).symm
  obtain ⟨hs, -, hv⟩ | ⟨hs, -, hv⟩ | ⟨hs, -, hv⟩ | ⟨i, hs, hq, hi, hv⟩ := verifyAndCorrect_cases data code maskTable
  · simp [hv, hs]
  · simp only [hv, VerifyOutcome.corrected.injEq, hne, exists_false, hs, ne_eq, not_true, false_and]
  · obtain ⟨-, hrange⟩ := verifyAndCorrect_eq_uncorrectable_iff_range.mp hv
    simpa [hv, hs] using hrange
  · refine iff_of_true ⟨i, hv⟩ ⟨hs, hq, fun hrange => ?_⟩
    rw [(locate_eq_none_iff_range _).mpr (.inr hrange)] at hi
    cases hi

/-- Status `01` is driven on the odd syndromes that are 0 or a column. -/
theorem status_verifyAndCorrect_eq_corrected_iff {data : Word} {code : Code} :
    (verifyAndCorrect data code).status = 0b01#2 ↔ overallParity data code = true ∧ ¬ 0x41#7 ≤ syndrome data code := by
  obtain ⟨hs, hq, hv⟩ | ⟨hs, hq, hv⟩ | ⟨hs, -, hv⟩ | ⟨i, -, -, -, hv⟩ := verifyAndCorrect_cases data code maskTable
  · simp [hv, hq]
  · simp [hv, hq, hs]
  · obtain ⟨-, hrange⟩ := verifyAndCorrect_eq_uncorrectable_iff_range.mp hv
    simpa [hv] using hrange
  · obtain ⟨-, hodd⟩ := exists_verifyAndCorrect_eq_flipped_iff.mp ⟨i, hv⟩
    simpa [hv] using hodd

/-- Settles O34: each outcome is a condition on the syndrome and `q`, and `countP_allCodes` counts it over the 256 error patterns. -/
theorem outcomeCountsOverAllCodes : Obligations.OutcomeCountsOverAllCodes := by
  unfold Obligations.OutcomeCountsOverAllCodes
  intro d
  refine ⟨countP_allCodes (d := d) (fun s q => s = 0#7 ∧ q = false) (by decide +kernel) fun c => ?_,
    countP_allCodes (d := d) (fun s q => q = true ∧ ¬ 0x41#7 ≤ s) (by decide +kernel) fun c => ?_,
    countP_allCodes (d := d) (fun s q => s = 0#7 ∧ q = true) (by decide +kernel) fun c => ?_,
    countP_allCodes (d := d) (fun s q => s ≠ 0#7 ∧ q = true ∧ ¬ 0x41#7 ≤ s) (by decide +kernel) fun c => ?_,
    countP_allCodes (d := d) (fun s q => s ≠ 0#7 ∧ (q = true → 0x41#7 ≤ s)) (by decide +kernel) fun c => ?_,
    countP_allCodes (d := d) (fun s q => s ≠ 0#7 ∧ q = false) (by decide +kernel) fun c => ?_,
    countP_allCodes (d := d) (fun s q => 0x41#7 ≤ s ∧ q = true) (by decide +kernel) fun c => ?_⟩
  · rw [beq_iff_eq, verifyAndCorrect_eq_clean_iff]
  · rw [rspStatus_packRsp, beq_iff_eq, status_verifyAndCorrect_eq_corrected_iff]
  · simp only [Bool.and_eq_true, beq_iff_eq, and_assoc]
    exact and_iff_right_of_imp fun ⟨hs, hq⟩ => verifyAndCorrect_of_codeBitZero hs hq
  · rw [← exists_verifyAndCorrect_eq_flipped_iff]
    simp [oneBit]
  · rw [beq_iff_eq, verifyAndCorrect_eq_uncorrectable_iff_range]
  · simp only [Bool.and_eq_true, beq_iff_eq, bne_iff_ne, Bool.not_eq_true', and_assoc]
    exact and_iff_right_of_imp fun ⟨hs, hq⟩ => verifyAndCorrect_of_even hs hq
  · have hne (h : 0x41#7 ≤ syndrome d c) : syndrome d c ≠ 0#7 := fun hs => absurd (hs ▸ h) (by decide)
    simp only [Bool.and_eq_true, beq_iff_eq, decide_eq_true_eq, and_assoc]
    exact and_iff_right_of_imp fun ⟨h, _⟩ => verifyAndCorrect_eq_uncorrectable_iff_range.mpr ⟨hne h, fun _ => h⟩

end Sys2Proof.Machine

/-! PROOFS. The exceptions family (60_exceptions.md): no operation, step or run stops, and Uncorrectable is an ordinary response. -/

namespace Sys2Proof.Machine

/-- A run of any length goes on from every state: every step does, with nothing for the state to keep (R85). -/
theorem run_next (n : Nat) (s : State) : ∃ t, Host.Core.run Sys2Proof.core n s = .next t := by
  have hstep (u : State) (_ : True) : ∃ t, step u = .next t ∧ True := by
    simpa only [and_true] using step_next u
  obtain ⟨t, hrun, -⟩ := run_next_of_step (M := Sys2Proof.core) hstep n s trivial
  exact ⟨t, hrun⟩

/-- Settles O40: instructions by `exec_next`, steps by `step_next`, runs by `run_next`. -/
theorem noStepFaultsOrRefuses : Obligations.NoStepFaultsOrRefuses := by
  unfold Obligations.NoStepFaultsOrRefuses
  refine ⟨fun i s => ?_, step_next, run_next⟩
  obtain ⟨t, hexec, -⟩ := exec_next i s
  exact ⟨t, hexec⟩

/-- Settles O35: VERIFY's transaction at the outcome Uncorrectable, which leaves the word as received and drives status `10` (R73). -/
theorem uncorrectableIsAResult : Obligations.UncorrectableIsAResult := by
  unfold Obligations.UncorrectableIsAResult
  intro data code s huncorrectable
  have htransaction := exec_verify_of_outcome huncorrectable s
  rwa [VerifyOutcome.dataOut_uncorrectable, VerifyOutcome.status_uncorrectable] at htransaction

end Sys2Proof.Machine

/-! PROOFS. The hazards family (70_reset_and_hazards.md): what to write back after a correction. -/

namespace Sys2Proof.Machine

/-! ### A changed word under the same code -/

theorem syndrome_xor_data (data a : Word) (code : Code) (m : MaskTable) :
    syndrome (data ^^^ a) code m = syndrome data code m ^^^ hamming7 a m := by
  rw [syndrome, syndrome, hamming7_xor, BitVec.xor_assoc, BitVec.xor_assoc, BitVec.xor_comm (hamming7 a m)]

theorem overallParity_xor_data (data a : Word) (code : Code) (m : MaskTable) :
    overallParity (data ^^^ a) code m = (overallParity data code m ^^ parity64 a) := by
  rw [overallParity_eq_parity64, overallParity_eq_parity64, parity64_xor, Bool.xor_assoc, Bool.xor_assoc,
    Bool.xor_comm (parity64 a)]

/-! ### What to write back after a correction (R105) -/

section Correction

variable {data : Word} {code : Code} {m : MaskTable}

/-- The two ways to Corrected: only code bit 0 disagrees, or the located bit is flipped. -/
theorem verifyAndCorrect_corrected_cases {w : Word} (h : verifyAndCorrect data code m = .corrected w) :
    (w = data ∧ syndrome data code m = 0#7 ∧ overallParity data code m = true) ∨
    ∃ i, w = data ^^^ oneBit i ∧ syndrome data code m = column i m ∧ overallParity data code m = true := by
  obtain ⟨-, -, hv⟩ | ⟨hs, hq, hv⟩ | ⟨-, -, hv⟩ | ⟨i, -, hq, hi, hv⟩ := verifyAndCorrect_cases data code m
  · cases hv.symm.trans h
  · cases hv.symm.trans h
    exact .inl ⟨rfl, hs, hq⟩
  · cases hv.symm.trans h
  · cases hv.symm.trans h
    exact .inr ⟨i, rfl, (column_of_locate hi).symm, hq⟩

/-- Flipping the located bit cancels the syndrome and `q`, whether or not that bit was the one in error (R79). -/
theorem verifyAndCorrect_flip_eq_clean {i : Fin 64} (hs : syndrome data code m = column i m)
    (hq : overallParity data code m = true) : verifyAndCorrect (data ^^^ oneBit i) code m = .clean := by
  refine verifyAndCorrect_of_match ?_ ?_
  · rw [syndrome_xor_data, hs, column, BitVec.xor_self]
  · rw [overallParity_xor_data, hq, oneBit, parity64_oneBit, Bool.xor_self]

theorem secdedEncode_eq_of_verify_clean (h : verifyAndCorrect data code m = .clean) : secdedEncode data m = code :=
  (secdedEncode_eq_iff data code m).mpr (verifyAndCorrect_eq_clean_iff.mp h)

end Correction

/-- Settles O36, by the two ways to Corrected: the flipped word is Clean, hence a codeword with the stored code; the kept word has its
code off in bit 0 (R76). -/
theorem whatToWriteBackAfterACorrection : Obligations.WhatToWriteBackAfterACorrection := by
  unfold Obligations.WhatToWriteBackAfterACorrection
  intro data code w hv
  obtain ⟨rfl, hs, hq⟩ | ⟨i, rfl, hs, hq⟩ := verifyAndCorrect_corrected_cases hv
  · obtain ⟨hcode, -⟩ := codeBitZeroMismatchKeepsTheWord w code
    exact ⟨fun hne => absurd rfl hne, fun _ => ⟨hs, hq, hcode.mp ⟨hs, hq⟩, hv, verifyAndCorrect_secdedEncode w maskTable⟩⟩
  · have hclean := verifyAndCorrect_flip_eq_clean hs hq
    exact ⟨fun _ => ⟨⟨i, rfl, hs⟩, hq, secdedEncode_eq_of_verify_clean hclean, hclean⟩,
      fun heq => absurd heq (xor_oneBit_ne data i)⟩

end Sys2Proof.Machine
